-- ==== Sys2Proof/Word.lean ====
section
/-! DEFINITION. The words of the block encoder: one name per width the spec gives (R6, R8, R10). -/

namespace Sys2Proof

/-- A four-bit field: an index, an exponent or a nibble code (`30_encoding.md` R61, R63, R65). -/
abbrev Nibble := BitVec 4

/-- A byte of an encoded block (`30_encoding.md` R60). -/
abbrev Byte := BitVec 8

/-- A 16-bit sample, coefficient or history value, in two's complement (`00_scope.md` R6, R9). -/
abbrev Half := BitVec 16

/-- A command word (`30_encoding.md` R65). -/
abbrev CmdWord := BitVec 32

/-- A response word, and the width of `DIAG` (`30_encoding.md` R67, `10_state.md` R32). -/
abbrev RspWord := BitVec 64

end Sys2Proof
end

