-- ==== Sys2Proof/Config.lean ====
section
/-! DEFINITION. The fixed parameters of `00_scope.md` R6. The one open parameter, `PHY` (R8, D2), is used by no rule and
has no counterpart here. The spec leaves no value free (`93_implementation_defined.md`, end of Part 1), so there is no
free value either. -/

namespace Sys2Proof.Config

/-- `BLOCK`: samples per block. -/
abbrev block : Nat := 14

/-- `BLOCK_BYTES`: bytes per encoded block. -/
abbrev blockBytes : Nat := 8

/-- Coefficient table capacity (R8, D5). -/
abbrev slots : Nat := 16

/-- `FRAC`: fraction bits of a coefficient (Q11). -/
abbrev frac : Nat := 11

/-- `BIAS`: the rounding bias, `2^(FRAC-1)`. -/
abbrev bias : Int := 1024

/-- `EXP_MAX`: the largest scale exponent. -/
abbrev expMax : Nat := 15

/-- `EXP_OFF`: the offset in the range test `2^(e+3)`. -/
abbrev expOff : Nat := 3

/-- `SAT_MIN`: the lower end of the saturation clamp. -/
abbrev satMin : Int := -32768

/-- `SAT_MAX`: the upper end of the saturation clamp. -/
abbrev satMax : Int := 32767

end Sys2Proof.Config
end

