-- ==== Sys2Proof/Syntax.lean ====
section
/-! DEFINITION. The fifteen commands of `30_encoding.md` R68, one constructor per row of the opcode map. The operands are
the fields of the word: `idx` as a nibble, `imm` as a 16-bit pattern (R66). -/

namespace Sys2Proof

/-- A command of the block encoder. -/
inductive Instr where
  /-- `NOP` (`46_system_commands.md` R170). -/
  | nop
  /-- `LDN n`: set the number of candidates (`45_load_read_commands.md` R151). -/
  | ldn (n : Nibble)
  /-- `LDA1 i, v`: load the first coefficient of pair i (R152). -/
  | lda1 (i : Nibble) (v : Half)
  /-- `LDA2 i, v`: load the second coefficient of pair i (R153). -/
  | lda2 (i : Nibble) (v : Half)
  /-- `LDH1 v`: load `HIST1` (R154). -/
  | ldh1 (v : Half)
  /-- `LDH2 v`: load `HIST2` (R155). -/
  | ldh2 (v : Half)
  /-- `LDS k, v`: load sample k of the block (R156). -/
  | lds (k : Nibble) (v : Half)
  /-- `ENC`: encode one block (`44_encode_command.md` R140). -/
  | enc
  /-- `RDO j`: read byte j of the encoded block (R157). -/
  | rdo (j : Nibble)
  /-- `RDH1`: read `HIST1` (R158). -/
  | rdh1
  /-- `RDH2`: read `HIST2` (R159). -/
  | rdh2
  /-- `RDR k`: read reconstructed sample k (R160). -/
  | rdr (k : Nibble)
  /-- `RDD`: read the diagnostic accumulator (R161). -/
  | rdd
  /-- `RDS`: read the status register (R162). -/
  | rds
  /-- `CLR`: clear the diagnostics (`46_system_commands.md` R171). -/
  | clr
deriving DecidableEq, Repr

end Sys2Proof
end

