-- ==== Sys2Proof/WellFormed.lean ====
section
/-! DEFINITION. Which commands exist: the extra constraints of `30_encoding.md` R68, R69 (e) and (f) on the index. -/

namespace Sys2Proof

/-- The command is one of R68: a sample index is at most 13, a byte index at most 7. -/
def Instr.wellFormed : Instr → Bool
  | .nop => true
  | .ldn _ => true
  | .lda1 _ _ => true
  | .lda2 _ _ => true
  | .ldh1 _ => true
  | .ldh2 _ => true
  | .lds k _ => decide (k.toNat < Config.block)
  | .enc => true
  | .rdo j => decide (j.toNat < Config.blockBytes)
  | .rdh1 => true
  | .rdh2 => true
  | .rdr k => decide (k.toNat < Config.block)
  | .rdd => true
  | .rds => true
  | .clr => true

end Sys2Proof
end

