-- ==== Sys2Proof/Decode.lean ====
section
/-! DEFINITION. The command word (`30_encoding.md` R65 to R71): its fields, the decoder, the opcode map of R68 as a list of
rows, the illegal words of R69, and the encoder. -/

namespace Sys2Proof

/-- Why a word is no command: the clauses (a) to (f) of `30_encoding.md` R69. The name has no effect on the machine: every
illegal word sets the same flag (R186). -/
inductive DecodeError where
  /-- (a) `op` is 0xF. -/
  | reservedOpcode
  /-- (b) the `zero` field is not 0. -/
  | zeroField
  /-- (c) `idx` is not 0 where the command takes none. -/
  | idxNotZero
  /-- (d) `imm` is not 0 where the command takes none. -/
  | immNotZero
  /-- (e) the sample index of `LDS` or `RDR` is 14 or 15. -/
  | sampleIndex
  /-- (f) the byte index of `RDO` is 8 or more. -/
  | byteIndex
deriving DecidableEq, Repr

/-- `op`, bits 31:28 (R65). -/
def fieldOp (w : CmdWord) : Nibble := w.extractLsb' 28 4

/-- `idx`, bits 27:24 (R65). -/
def fieldIdx (w : CmdWord) : Nibble := w.extractLsb' 24 4

/-- `zero`, bits 23:16 (R65). -/
def fieldZero (w : CmdWord) : Byte := w.extractLsb' 16 8

/-- `imm`, bits 15:0 (R65). -/
def fieldImm (w : CmdWord) : Half := w.extractLsb' 0 16

/-- A command that takes no `idx` (R69 c). -/
def withoutIdx (idx : Nibble) (r : Except DecodeError Instr) : Except DecodeError Instr :=
  if idx = 0 then r else .error .idxNotZero

/-- A command that takes no `imm` (R69 d). -/
def withoutImm (imm : Half) (r : Except DecodeError Instr) : Except DecodeError Instr :=
  if imm = 0 then r else .error .immNotZero

/-- A command whose `idx` names one of `n` entries (R69 e, f). -/
def withIndex (n : Nat) (idx : Nibble) (e : DecodeError) (r : Except DecodeError Instr) :
    Except DecodeError Instr :=
  if idx.toNat < n then r else .error e

/-- The row of R68 that `op` selects, its constraints on `idx` and `imm` checked in that order. -/
def decodeFields (op idx : Nibble) (imm : Half) : Except DecodeError Instr :=
  match op.toNat with
  | 0x0 => withoutIdx idx (withoutImm imm (.ok .nop))
  | 0x1 => withoutImm imm (.ok (.ldn idx))
  | 0x2 => .ok (.lda1 idx imm)
  | 0x3 => .ok (.lda2 idx imm)
  | 0x4 => withoutIdx idx (.ok (.ldh1 imm))
  | 0x5 => withoutIdx idx (.ok (.ldh2 imm))
  | 0x6 => withIndex Config.block idx .sampleIndex (.ok (.lds idx imm))
  | 0x7 => withoutIdx idx (withoutImm imm (.ok .enc))
  | 0x8 => withIndex Config.blockBytes idx .byteIndex (withoutImm imm (.ok (.rdo idx)))
  | 0x9 => withoutIdx idx (withoutImm imm (.ok .rdh1))
  | 0xA => withoutIdx idx (withoutImm imm (.ok .rdh2))
  | 0xB => withIndex Config.block idx .sampleIndex (withoutImm imm (.ok (.rdr idx)))
  | 0xC => withoutIdx idx (withoutImm imm (.ok .rdd))
  | 0xD => withoutIdx idx (withoutImm imm (.ok .rds))
  | 0xE => withoutIdx idx (withoutImm imm (.ok .clr))
  | _ => .error .reservedOpcode

/-- The decoder, total on all `2^32` words (R69): `op` first, then the `zero` field, then the row's own constraints (R65).
DESIGN CHOICE (log 4): a word that breaks several constraints is named after the first of them; safe, the name has no
effect. -/
def decode (w : CmdWord) : Except DecodeError Instr :=
  if fieldOp w = 0xF#4 then .error .reservedOpcode
  else if fieldZero w ≠ 0 then .error .zeroField
  else decodeFields (fieldOp w) (fieldIdx w) (fieldImm w)

/-- The word is illegal (R69): the decoder refuses it. -/
def isIllegal (w : CmdWord) : Bool :=
  match decode w with
  | .ok _ => false
  | .error _ => true

/-! ## The opcode map of R68, row by row -/

/-- A row of the opcode map: the columns match and mask, the number of entries the index may name (16 where the row has no
extra constraint), and the command with the `idx` and `imm` fields as its operands. -/
structure OpcodeRow where
  /-- The mnemonic, as `opcode_table.json` spells it. -/
  mnemonic : String
  /-- The column "match". -/
  pattern : CmdWord
  /-- The column "mask". -/
  mask : CmdWord
  /-- The extra constraint: `idx` is below this. -/
  entries : Nat
  /-- The command the row stands for. -/
  instr : Nibble → Half → Instr

/-- The word meets the row: `(W & mask) = match` and the extra constraint holds (R68). -/
def OpcodeRow.covers (r : OpcodeRow) (w : CmdWord) : Bool :=
  w &&& r.mask == r.pattern && decide ((fieldIdx w).toNat < r.entries)

/-- The fifteen rows of R68. -/
def opcodeRows : List OpcodeRow :=
  [⟨"NOP", 0x00000000, 0xFFFFFFFF, 16, fun _ _ => .nop⟩,
   ⟨"LDN", 0x10000000, 0xF0FFFFFF, 16, fun i _ => .ldn i⟩,
   ⟨"LDA1", 0x20000000, 0xF0FF0000, 16, .lda1⟩,
   ⟨"LDA2", 0x30000000, 0xF0FF0000, 16, .lda2⟩,
   ⟨"LDH1", 0x40000000, 0xFFFF0000, 16, fun _ v => .ldh1 v⟩,
   ⟨"LDH2", 0x50000000, 0xFFFF0000, 16, fun _ v => .ldh2 v⟩,
   ⟨"LDS", 0x60000000, 0xF0FF0000, 14, .lds⟩,
   ⟨"ENC", 0x70000000, 0xFFFFFFFF, 16, fun _ _ => .enc⟩,
   ⟨"RDO", 0x80000000, 0xF8FFFFFF, 16, fun j _ => .rdo j⟩,
   ⟨"RDH1", 0x90000000, 0xFFFFFFFF, 16, fun _ _ => .rdh1⟩,
   ⟨"RDH2", 0xA0000000, 0xFFFFFFFF, 16, fun _ _ => .rdh2⟩,
   ⟨"RDR", 0xB0000000, 0xF0FFFFFF, 14, fun k _ => .rdr k⟩,
   ⟨"RDD", 0xC0000000, 0xFFFFFFFF, 16, fun _ _ => .rdd⟩,
   ⟨"RDS", 0xD0000000, 0xFFFFFFFF, 16, fun _ _ => .rds⟩,
   ⟨"CLR", 0xE0000000, 0xFFFFFFFF, 16, fun _ _ => .clr⟩]

/-! ## The encoder -/

/-- A word from its four fields, `zero` being 0 (R65). -/
def packFields (op idx : Nibble) (imm : Half) : CmdWord := op ++ idx ++ 0#8 ++ imm

/-- The word of a command (R68). -/
def encode : Instr → CmdWord
  | .nop => packFields 0x0 0 0
  | .ldn n => packFields 0x1 n 0
  | .lda1 i v => packFields 0x2 i v
  | .lda2 i v => packFields 0x3 i v
  | .ldh1 v => packFields 0x4 0 v
  | .ldh2 v => packFields 0x5 0 v
  | .lds k v => packFields 0x6 k v
  | .enc => packFields 0x7 0 0
  | .rdo j => packFields 0x8 j 0
  | .rdh1 => packFields 0x9 0 0
  | .rdh2 => packFields 0xA 0 0
  | .rdr k => packFields 0xB k 0
  | .rdd => packFields 0xC 0 0
  | .rds => packFields 0xD 0 0
  | .clr => packFields 0xE 0 0

/-! ## The table's numbering -/

/-- The command word whose bits are the low `nbits` bits of `w`; every bit above them is 0. A command is one 32-bit word
transferred whole (R43, R65), so bit n of the table is bit n of the word. -/
def tableWord (nbits w : Nat) : CmdWord := BitVec.ofNat 32 (w % 2 ^ nbits)

/-- What the decoder reads from an instruction whose bits are `w`. -/
def decodeTableWord (nbits w : Nat) : Option Instr :=
  match decode (tableWord nbits w) with
  | .ok i => some i
  | .error _ => none

end Sys2Proof
end

