-- ==== Sys2Proof/Machine/State.lean ====
section
/-! DEFINITION. The state of the block encoder (`10_state.md` R20), its reset values (R31), and the reasons a step could
stop: the spec gives none (`60_exceptions.md` R180). -/

namespace Sys2Proof.Machine

/-- One slot of the coefficient table (`10_state.md` R24): `a1` weighs the more recent sample, `a2` the one before it. -/
structure CoefPair where
  /-- `COEF[i].a1`, signed Q11. -/
  a1 : Half
  /-- `COEF[i].a2`, signed Q11. -/
  a2 : Half
deriving DecidableEq, Repr

/-- What the host can do to the unit (`92_eei_decisions.md` D2, `70_reset_and_hazards.md` R220): send a command word, or
apply the `RESET` event. -/
inductive HostEvent where
  /-- A word on the command channel, legal or not. -/
  | command (w : CmdWord)
  /-- The `RESET` event (`70_reset_and_hazards.md` R200); it is not a command word. -/
  | reset
deriving DecidableEq, Repr

/-- The conditions the unit detects, with their bit of `STATUS` (`60_exceptions.md` R181). -/
inductive Condition where
  /-- `SOVF`, bit 0: some `ENC` found no exponent (R183). -/
  | unreachableScale
  /-- `CERR`, bit 1: an illegal command was received (R184). -/
  | illegalCommand
deriving DecidableEq, Repr

/-- The complete state (R20), and after it the two channels of D2 as the model's own fields (log 1, 2). -/
@[ext]
structure State where
  /-- `HIST1`: the most recent reconstructed sample (R21). -/
  hist1 : Half
  /-- `HIST2`: the second most recent reconstructed sample (R21). -/
  hist2 : Half
  /-- `COEF[0..15]`: the coefficient table (R24). -/
  coef : Vector CoefPair 16
  /-- `CFG.NM1`: the number of candidate pairs minus one (R25). -/
  nm1 : Nibble
  /-- `SAMPLE[0..13]`: the block to encode (R27). -/
  sample : Vector Half 14
  /-- `OUT[0..7]`: the encoded block of the most recent `ENC` (R28). -/
  out : Vector Byte 8
  /-- `RECON[0..13]`: the reconstructed samples of the most recent `ENC` (R28). -/
  recon : Vector Half 14
  /-- `DIAG`: the cumulative signed reconstruction error (R32). -/
  diag : RspWord
  /-- `STATUS.SOVF` (R26). -/
  sovf : Bool
  /-- `STATUS.CERR` (R26). -/
  cerr : Bool
  /-- The model's own: what the host has sent and the unit has not taken yet, the oldest first (R48). DESIGN CHOICE,
  log 1. -/
  pending : List HostEvent
  /-- The model's own: the responses sent, the oldest first (R48, R221). DESIGN CHOICE, log 2. -/
  responses : List RspWord
deriving DecidableEq, Repr

/-- The reasons a step faults. None: "nothing stops, suspends or diverts a command" (`60_exceptions.md` R180), and no
element of the state can be absent or unreadable. Nobody raises a fault; safe. -/
inductive Fault
deriving DecidableEq, Repr

/-- The reasons a step is refused. -/
inductive Refusal where
  /-- Raised only by an arm of `exec` whose instruction has no meaning yet, by name; safe. No arm raises it now. -/
  | notModelled (mnemonic : String)
deriving DecidableEq, Repr

/-- What a step of this machine answers. -/
abbrev Result := Host.Outcome State Fault Refusal

/-- The machine right after `RESET`: every element is zero (`10_state.md` R31). The two channels are empty
(DESIGN CHOICE, log 1, 2). -/
def State.reset : State where
  hist1 := 0
  hist2 := 0
  coef := Vector.replicate 16 ⟨0, 0⟩
  nm1 := 0
  sample := Vector.replicate 14 0
  out := Vector.replicate 8 0
  recon := Vector.replicate 14 0
  diag := 0
  sovf := false
  cerr := false
  pending := []
  responses := []

end Sys2Proof.Machine
end

