-- ==== Sys2Proof/Machine/Ops.lean ====
section
/-! DEFINITION. The named operations over the state: every read and write of an element goes through one of these; the
recording of a condition; the `RESET` event; the two channels. -/

namespace Sys2Proof.Machine

/-! ## Reads -/

/-- `N = CFG.NM1 + 1`, the number of candidates, 1 to 16 (`00_scope.md` R7, `10_state.md` R25). -/
def State.candidateCount (s : State) : Nat := s.nm1.toNat + 1

/-- `COEF[i]`. -/
def State.coefAt (s : State) (i : Nibble) : CoefPair := s.coef[i.toNat]'i.isLt

/-- `OUT[j]`. -/
def State.outAt (s : State) (j : Fin 8) : Byte := s.out[j]

/-- `RECON[k]`. -/
def State.reconAt (s : State) (k : Fin 14) : Half := s.recon[k]

/-- The block as signed integers, `SAMPLE[0]` first (`10_state.md` R27). -/
def State.samples (s : State) : List Int := s.sample.toList.map BitVec.toInt

/-! ## Writes -/

/-- `HIST1 <- v`. -/
def State.writeHist1 (s : State) (v : Half) : State := { s with hist1 := v }

/-- `HIST2 <- v`. -/
def State.writeHist2 (s : State) (v : Half) : State := { s with hist2 := v }

/-- `COEF[i].a1 <- v`. -/
def State.writeCoefA1 (s : State) (i : Nibble) (v : Half) : State :=
  { s with coef := s.coef.set i.toNat { s.coefAt i with a1 := v } i.isLt }

/-- `COEF[i].a2 <- v`. -/
def State.writeCoefA2 (s : State) (i : Nibble) (v : Half) : State :=
  { s with coef := s.coef.set i.toNat { s.coefAt i with a2 := v } i.isLt }

/-- `CFG.NM1 <- n`. -/
def State.writeNm1 (s : State) (n : Nibble) : State := { s with nm1 := n }

/-- `SAMPLE[k] <- v`. -/
def State.writeSample (s : State) (k : Fin 14) (v : Half) : State :=
  { s with sample := s.sample.set k.val v k.isLt }

/-- All entries of `OUT` at once (`10_state.md` R28). -/
def State.writeOut (s : State) (block : Vector Byte 8) : State := { s with out := block }

/-- All entries of `RECON` at once (`10_state.md` R28). -/
def State.writeRecon (s : State) (ys : Vector Half 14) : State := { s with recon := ys }

/-- `DIAG <- v`. -/
def State.writeDiag (s : State) (v : RspWord) : State := { s with diag := v }

/-- `rsp <- v`: one response word leaves after all earlier ones (`30_encoding.md` R67, `20_memory.md` R48). -/
def State.respond (s : State) (v : RspWord) : State := { s with responses := s.responses ++ [v] }

/-! ## Conditions -/

/-- A condition is recorded in its sticky bit of `STATUS` and changes nothing else (`60_exceptions.md` R180, R181, R187).
This is all the unit has in place of taking an exception: no pc, status or mode is saved or changed, and there is nothing
to return to (R188). -/
def State.recordCondition (s : State) : Condition → State
  | .unreachableScale => { s with sovf := true }
  | .illegalCommand => { s with cerr := true }

/-- The effect of a command that is illegal (`30_encoding.md` R69, `60_exceptions.md` R184). -/
def State.illegal (s : State) : State := s.recordCondition .illegalCommand

/-! ## `RESET` and the channels -/

/-- The `RESET` event: every element is put at its reset value (`70_reset_and_hazards.md` R200). Words the host has still
to send and responses already sent are no elements of the unit: they stay (DESIGN CHOICE, log 2). -/
def State.applyReset (s : State) : State :=
  { State.reset with pending := s.pending, responses := s.responses }

/-- The oldest thing the host has sent, and the state once the unit has taken it (`20_memory.md` R48). -/
def State.takeEvent (s : State) : Option (HostEvent × State) :=
  match s.pending with
  | [] => none
  | e :: rest => some (e, { s with pending := rest })

/-- The host's next word: it stands before everything still pending. -/
def State.putNext (s : State) (w : CmdWord) : State := { s with pending := .command w :: s.pending }

/-- Between commands the unit is idle and keeps all state (`60_exceptions.md` R190). DESIGN CHOICE, log 3. -/
def State.idle (s : State) : State := s

end Sys2Proof.Machine
end

