-- ==== Sys2Proof/Machine/Flags.lean ====
section
/-! DEFINITION. The status register (`10_state.md` R26): two sticky flags, all other bits reading as zero. The unit has no
condition codes; the only flag any arithmetic sets is `SOVF`. -/

namespace Sys2Proof.Machine

/-- `STATUS` as `RDS` reads it: bit 0 `SOVF`, bit 1 `CERR`, bits 63:2 zero (R26, `45_load_read_commands.md` R162). -/
def State.statusWord (s : State) : RspWord :=
  (BitVec.ofBool s.cerr ++ BitVec.ofBool s.sovf).setWidth 64

/-- `SOVF` after an `ENC`: set if no exponent fitted, else as it was (`44_encode_command.md` R141). -/
def State.noteScale (s : State) (unreachable : Bool) : State :=
  if unreachable then s.recordCondition .unreachableScale else s

/-- `STATUS.SOVF <- 0`; `CERR` stays (`46_system_commands.md` R171). -/
def State.clearSovf (s : State) : State := { s with sovf := false }

end Sys2Proof.Machine
end

