-- ==== Sys2Proof/Machine/Arith.lean ====
section
/-! DEFINITION. The fixed-point primitives of `40_arithmetic.md`, on exact integers (R80). Nothing here wraps, saturates or
loses bits but `clamp16`, the right shift, the nibble mask and `wrap64`. -/

namespace Sys2Proof.Machine

/-- `x << k`: `x * 2^k`, exactly (R81). -/
def shl (x : Int) (k : Nat) : Int := x * 2 ^ k

/-- `x >> k`: the arithmetic shift, the floor of `x / 2^k` (R82). -/
def asr (x : Int) (k : Nat) : Int := x / 2 ^ k

/-- `clamp16` (R83). -/
def clamp16 (x : Int) : Int :=
  if x < Config.satMin then Config.satMin else if Config.satMax < x then Config.satMax else x

/-- `x & 0xF`: the low four bits of the two's-complement form (R84). -/
def maskNibble (x : Int) : Nibble := BitVec.ofInt 4 x

/-- `sext_4` (R84). -/
def sext4 (q : Nibble) : Int := if q.toNat ≤ 7 then q.toNat else q.toNat - 16

/-- `Predict(a1, a2, h1, h2)`, a Q11 value (R85). -/
def predict (a1 a2 h1 h2 : Int) : Int := h1 * a1 + h2 * a2

/-- `Err(s, t)` (R86). -/
def errOf (s t : Int) : Int := shl s Config.frac - t - Config.bias

/-- `Res(s, t)`, the shifted residual (R87). -/
def resOf (s t : Int) : Int := asr (errOf s t) Config.frac

/-- `Recon(q, e, t)` (R88). -/
def reconOf (q : Nibble) (e : Nat) (t : Int) : Int :=
  clamp16 (asr (shl (shl (sext4 q) e) Config.frac + Config.bias + t) Config.frac)

/-- `wrap64(x)` as a 64-bit pattern: the value congruent to x modulo `2^64` (R90). -/
def wrap64 (x : Int) : RspWord := BitVec.ofInt 64 x

end Sys2Proof.Machine
end

