-- ==== Sys2Proof/Machine/Select.lean ====
section
/-! DEFINITION. Stage 1 of `ENC`, the coefficient selector (`41_select.md`). It writes no state. -/

namespace Sys2Proof.Machine

/-- The unshifted residuals of `Replay` (R100): the local history starts at `(h1, h2)` and follows the predictions. -/
def replayErrs (a1 a2 : Int) : Int → Int → List Int → List Int
  | _, _, [] => []
  | h1, h2, s :: rest =>
    let t := predict a1 a2 h1 h2
    errOf s t :: replayErrs a1 a2 (clamp16 (asr t Config.frac)) h1 rest

/-- `Replay` from the entering history, over the block in `SAMPLE` (R100). -/
def State.replay (s : State) (p : CoefPair) : List Int :=
  replayErrs p.a1.toInt p.a2.toInt s.hist1.toInt s.hist2.toInt s.samples

/-- `acc` of a candidate: the exact sum of its signed residuals (R100, R101). -/
def State.accOf (s : State) (p : CoefPair) : Int := (s.replay p).sum

/-- `acc[0 .. N-1]`: slots `N .. 15` are not read (R101). -/
def State.accs (s : State) : List Int := (s.coef.toList.take s.candidateCount).map s.accOf

/-- The scan of R102 from index `i` on: `best` is the index chosen so far and `least` its accumulator; the comparison of
absolute values is strict, so the lowest index wins a tie (R103). -/
def scanLeast (best : Nat) (least : Int) (i : Nat) : List Int → Nat
  | [] => best
  | a :: rest => if a.natAbs < least.natAbs then scanLeast i a (i + 1) rest else scanLeast best least (i + 1) rest

/-- The index of the smallest absolute value (R102). -/
def leastIndex : List Int → Nat
  | [] => 0
  | a :: rest => scanLeast 0 a 1 rest

/-- `Select()`: the chosen index, at most `NM1` (R102). -/
def State.select (s : State) : Nibble := BitVec.ofNat 4 (leastIndex s.accs)

end Sys2Proof.Machine
end

