-- ==== Sys2Proof/Machine/Scale.lean ====
section
/-! DEFINITION. Stages 2 and 3 of `ENC`, the quantization scale (`42_scale.md`). -/

namespace Sys2Proof.Machine

/-- `RangePass`: the shifted residuals of the chosen pair's replay (R110). -/
def State.rangePass (s : State) (p : CoefPair) : List Int := (s.replay p).map (asr · Config.frac)

/-- `rmax` (R111). -/
def maxOf : List Int → Int
  | [] => 0
  | r :: rest => rest.foldl max r

/-- `rmin` (R111). -/
def minOf : List Int → Int
  | [] => 0
  | r :: rest => rest.foldl min r

/-- The range test of R112: strict above, not strict below. -/
def fits (rmax rmin : Int) (e : Nat) : Bool :=
  decide (2 ^ (e + Config.expOff) > rmax) && decide (2 ^ (e + Config.expOff) ≥ -rmin)

/-- `Scale(rmax, rmin)`: the smallest exponent in 0..15 that fits, or 15 with the unreachable-scale mark (R112, R113). -/
def scale (rmax rmin : Int) : Nat × Bool :=
  match (List.range (Config.expMax + 1)).find? (fits rmax rmin) with
  | some e => (e, false)
  | none => (Config.expMax, true)

/-- Stages 2 and 3 for the chosen pair. -/
def State.scaleFor (s : State) (p : CoefPair) : Nat × Bool :=
  scale (maxOf (s.rangePass p)) (minOf (s.rangePass p))

end Sys2Proof.Machine
end

