-- ==== Sys2Proof/Machine/Quantize.lean ====
section
/-! DEFINITION. Stages 4 and 5 of `ENC`: the 4-bit quantizer with history update, and packing (`43_quantize.md`). -/

namespace Sys2Proof.Machine

/-- What the final pass yields (R124). -/
structure PassResult where
  /-- The codes `q[k]`, in sample order. -/
  codes : List Nibble
  /-- The reconstructed samples, in sample order. -/
  recon : List Int
  /-- The history after the pass. -/
  hist1 : Int
  /-- The history after the pass. -/
  hist2 : Int
  /-- The sum of original minus reconstructed. -/
  err : Int
deriving DecidableEq, Repr

/-- The code of one sample (R120): it truncates and it neither rounds nor saturates (R125). -/
def quantCode (s t : Int) (e : Nat) : Nibble := maskNibble (asr (resOf s t) e)

/-- `QuantPass` (R124): R120 to R123 over the samples in order, the history following the reconstructions. -/
def quantPass (a1 a2 : Int) (e : Nat) : Int → Int → List Int → PassResult
  | h1, h2, [] => { codes := [], recon := [], hist1 := h1, hist2 := h2, err := 0 }
  | h1, h2, s :: rest =>
    let t := predict a1 a2 h1 h2
    let q := quantCode s t e
    let y := reconOf q e t
    let tail := quantPass a1 a2 e y h1 rest
    { codes := q :: tail.codes, recon := y :: tail.recon, hist1 := tail.hist1, hist2 := tail.hist2,
      err := (s - y) + tail.err }

/-- The final pass over the block in `SAMPLE`, from the entering history. -/
def State.quantize (s : State) (p : CoefPair) (e : Nat) : PassResult :=
  quantPass p.a1.toInt p.a2.toInt e s.hist1.toInt s.hist2.toInt s.samples

/-- Byte j of an encoded block (R126, `30_encoding.md` R61, R62): the header, or the codes of two samples, the earlier one
in the high nibble. -/
def packByte (sel : Nibble) (e : Nat) (codes : List Nibble) : Nat → Byte
  | 0 => sel ++ BitVec.ofNat 4 e
  | j + 1 => codes.getD (2 * j) 0 ++ codes.getD (2 * j + 1) 0

/-- `Pack(sel, e, q)` (R126). -/
def pack (sel : Nibble) (e : Nat) (codes : List Nibble) : Vector Byte 8 :=
  Vector.ofFn fun j => packByte sel e codes j.val

/-- Fourteen reconstructed samples as the buffer `RECON` holds them. -/
def reconBuffer (ys : List Int) : Vector Half 14 := Vector.ofFn fun k => BitVec.ofInt 16 (ys.getD k.val 0)

end Sys2Proof.Machine
end

