-- ==== Sys2Proof/Machine/Encode.lean ====
section
/-! DEFINITION. The `ENC` command (`44_encode_command.md`). -/

namespace Sys2Proof.Machine

/-- What the final pass leaves in the state: `RECON`, `HIST1`, `HIST2` and `DIAG` (`43_quantize.md` R124). -/
def State.writePass (s : State) (r : PassResult) : State :=
  (((s.writeRecon (reconBuffer r.recon)).writeHist1 (BitVec.ofInt 16 r.hist1)).writeHist2
    (BitVec.ofInt 16 r.hist2)).writeDiag (wrap64 (s.diag.toInt + r.err))

/-- The five stages of `ENC` in their order (R140). -/
def State.encodeBlock (s : State) : State :=
  let sel := s.select
  let p := s.coefAt sel
  let sc := s.scaleFor p
  let r := s.quantize p sc.1
  ((s.noteScale sc.2).writePass r).writeOut (pack sel sc.1 r.codes)

/-- `ENC` (R140, R141): it completes from every state and sends no response. -/
def execEnc (s : State) : Result := .next s.encodeBlock

end Sys2Proof.Machine
end

