-- ==== Sys2Proof/Machine/Operands.lean ====
section
/-! DEFINITION. The operand forms of `30_encoding.md` R66 and the extensions of a response (R67). -/

namespace Sys2Proof.Machine

/-- `sext_16(v)` (`00_scope.md` R11): `v - 65536` if bit 15 is set, else `v`. -/
def sext16 (v : Half) : Int := if v.getLsbD 15 then v.toNat - 65536 else v.toNat

/-- The operand of a load: `sext_16(imm)`, put back into a 16-bit element in two's complement (R9, R66, R150). -/
def loadOperand (imm : Half) : Half := BitVec.ofInt 16 (sext16 imm)

/-- `idx` as a sample index, for `LDS` and `RDR`: 14 and 15 name nothing (`20_memory.md` R47). -/
def sampleIndex (idx : Nibble) : Option (Fin 14) :=
  if h : idx.toNat < 14 then some ⟨idx.toNat, h⟩ else none

/-- `idx` as a byte index, for `RDO`: 8 to 15 name nothing (`20_memory.md` R47). -/
def byteIndex (idx : Nibble) : Option (Fin 8) :=
  if h : idx.toNat < 8 then some ⟨idx.toNat, h⟩ else none

/-- `zext_64` of a byte (`00_scope.md` R11). -/
def zextByte (b : Byte) : RspWord := b.setWidth 64

/-- `sext_64` of a 16-bit element (`00_scope.md` R11): the 64-bit two's-complement form of its value. -/
def sextHalf (v : Half) : RspWord := BitVec.ofInt 64 v.toInt

end Sys2Proof.Machine
end

