-- ==== Sys2Proof/Machine/Load.lean ====
section
/-! DEFINITION. The load commands (`45_load_read_commands.md` R150 to R156). -/

namespace Sys2Proof.Machine

/-- `LDN n` (R151). -/
def execLdn (n : Nibble) (s : State) : Result := .next (s.writeNm1 n)

/-- `LDA1 i, v` (R152). -/
def execLda1 (i : Nibble) (v : Half) (s : State) : Result := .next (s.writeCoefA1 i (loadOperand v))

/-- `LDA2 i, v` (R153). -/
def execLda2 (i : Nibble) (v : Half) (s : State) : Result := .next (s.writeCoefA2 i (loadOperand v))

/-- `LDH1 v` (R154). -/
def execLdh1 (v : Half) (s : State) : Result := .next (s.writeHist1 (loadOperand v))

/-- `LDH2 v` (R155). -/
def execLdh2 (v : Half) (s : State) : Result := .next (s.writeHist2 (loadOperand v))

/-- `LDS k, v` (R156). An index that names no sample makes the command illegal (`20_memory.md` R44); the decoder never
yields one (log 7). -/
def execLds (k : Nibble) (v : Half) (s : State) : Result :=
  match sampleIndex k with
  | some k => .next (s.writeSample k (loadOperand v))
  | none => .next s.illegal

end Sys2Proof.Machine
end

