-- ==== Sys2Proof/Machine/Read.lean ====
section
/-! DEFINITION. The read commands (`45_load_read_commands.md` R157 to R162): each sends one response and changes nothing
else. -/

namespace Sys2Proof.Machine

/-- `RDO j` (R157). An index that names no byte makes the command illegal (`20_memory.md` R44); the decoder never yields
one (log 7). -/
def execRdo (j : Nibble) (s : State) : Result :=
  match byteIndex j with
  | some j => .next (s.respond (zextByte (s.outAt j)))
  | none => .next s.illegal

/-- `RDH1` (R158). -/
def execRdh1 (s : State) : Result := .next (s.respond (sextHalf s.hist1))

/-- `RDH2` (R159). -/
def execRdh2 (s : State) : Result := .next (s.respond (sextHalf s.hist2))

/-- `RDR k` (R160). An index that names no sample makes the command illegal (`20_memory.md` R44); the decoder never yields
one (log 7). -/
def execRdr (k : Nibble) (s : State) : Result :=
  match sampleIndex k with
  | some k => .next (s.respond (sextHalf (s.reconAt k)))
  | none => .next s.illegal

/-- `RDD` (R161). -/
def execRdd (s : State) : Result := .next (s.respond s.diag)

/-- `RDS` (R162): reading does not clear. -/
def execRds (s : State) : Result := .next (s.respond s.statusWord)

end Sys2Proof.Machine
end

