-- ==== Sys2Proof/Machine/System.lean ====
section
/-! DEFINITION. The system commands (`46_system_commands.md`). -/

namespace Sys2Proof.Machine

/-- `NOP` (R170). -/
def execNop (s : State) : Result := .next s

/-- `CLR` (R171): `DIAG` and `STATUS.SOVF`, not `CERR`. -/
def execClr (s : State) : Result := .next (s.writeDiag 0).clearSovf

end Sys2Proof.Machine
end

