-- ==== Sys2Proof/Machine/Dispatch.lean ====
section
/-! DEFINITION. One arm per command, each one direct call of its meaning. -/

namespace Sys2Proof.Machine

def exec (i : Instr) (s : State) : Host.Outcome State Fault Refusal :=
  match i with
  | .nop => Sys2Proof.Machine.execNop s
  | .ldn n => Sys2Proof.Machine.execLdn n s
  | .lda1 c v => Sys2Proof.Machine.execLda1 c v s
  | .lda2 c v => Sys2Proof.Machine.execLda2 c v s
  | .ldh1 v => Sys2Proof.Machine.execLdh1 v s
  | .ldh2 v => Sys2Proof.Machine.execLdh2 v s
  | .lds k v => Sys2Proof.Machine.execLds k v s
  | .enc => Sys2Proof.Machine.execEnc s
  | .rdo j => Sys2Proof.Machine.execRdo j s
  | .rdh1 => Sys2Proof.Machine.execRdh1 s
  | .rdh2 => Sys2Proof.Machine.execRdh2 s
  | .rdr k => Sys2Proof.Machine.execRdr k s
  | .rdd => Sys2Proof.Machine.execRdd s
  | .rds => Sys2Proof.Machine.execRds s
  | .clr => Sys2Proof.Machine.execClr s

end Sys2Proof.Machine
end

