-- ==== Sys2Proof/Machine/Run.lean ====
section
/-! DEFINITION. What the unit does with one thing the host has sent. -/

namespace Sys2Proof.Machine

/-- A word from the command channel: a legal word is its command, an illegal one records `CERR` and nothing else
(`30_encoding.md` R68, R69). -/
def runWord (w : CmdWord) (s : State) : Result :=
  match decode w with
  | .ok i => exec i s
  | .error _ => .next s.illegal

/-- One event, `s` being the state once it has been taken from the channel. -/
def runEvent : HostEvent → State → Result
  | .command w, s => runWord w s
  | .reset, s => .next s.applyReset

/-- Take the oldest event and run it; with nothing pending the unit is idle. -/
def runNext (s : State) : Result :=
  match s.takeEvent with
  | some (e, s') => runEvent e s'
  | none => .next s.idle

end Sys2Proof.Machine
end

