-- ==== Sys2Proof/Machine/Step.lean ====
section
/-! DEFINITION. One step of the machine, and where the host finds its next instruction. -/

namespace Sys2Proof.Machine

/-- One atomic step: the oldest pending event (`20_memory.md` R45, R48). -/
def step : State → Host.Outcome State Fault Refusal := runNext

/-- The command whose bits are `w` as the very next thing the host has sent; everything else stays (log 1). -/
def State.withFetchWord (s : State) (nbits w : Nat) : State := s.putNext (Sys2Proof.tableWord nbits w)

end Sys2Proof.Machine
end

