-- ==== Sys2Proof/Machine/HostProcedure.lean ====
section
/-! DEFINITION. What the host sends: the pseudo-instructions of `30_encoding.md` R73 and the host procedures of
`70_reset_and_hazards.md` R202 to R204. They run on the host; none of them is state or a step of the unit. -/

namespace Sys2Proof.Machine

/-- `LDC i, a1, a2`: load one coefficient pair (R73). -/
def ldc (i : Nibble) (a1 a2 : Half) : List Instr := [.lda1 i a1, .lda2 i a2]

/-- `SEED h1, h2`: load the history seed (R73). -/
def seed (h1 h2 : Half) : List Instr := [.ldh1 h1, .ldh2 h2]

/-- `BLK s0, ..., s13`: load and encode one block, 15 words (R73). -/
def blk (samples : Vector Half 14) : List Instr :=
  List.ofFn (fun k : Fin 14 => Instr.lds (BitVec.ofNat 4 k.val) samples[k]) ++ [.enc]

/-- `RDB`: read the encoded block, 8 words (R73). -/
def rdb : List Instr := List.ofFn fun j : Fin 8 => Instr.rdo (BitVec.ofNat 4 j.val)

/-- The commands one after the other (`20_memory.md` R48). -/
def runCommands : List Instr → State → Result
  | [], s => .next s
  | i :: rest, s =>
    match exec i s with
    | .next s' => runCommands rest s'
    | .fault r => .fault r
    | .refused r => .refused r

/-- The history seed, as exact integers: `(hist[-1], hist[-2])`, for `HIST1` and `HIST2` (R203). What the host loads where
they leave the 16-bit range the source does not say (N14), so they are not narrowed here. -/
def historySeed (s0 s1 : Int) : Int × Int := (s0 - (s1 - s0), s0 - (s1 - s0) - (s1 - s0))

/-- A block of at most 14 real samples, padded with trailing zeros (R204). -/
def padBlock (real : List Half) : Vector Half 14 := Vector.ofFn fun k => real.getD k.val 0

/-- The blocks of a sample sequence: at most `n` of them, 14 samples each, the last one padded (R204). -/
def blocksOf : Nat → List Half → List (Vector Half 14)
  | 0, _ => []
  | _, [] => []
  | n + 1, samples => padBlock (samples.take 14) :: blocksOf n (samples.drop 14)

/-- The table's loads, slot 0 first (R202 step 2). -/
def loadTable (table : List CoefPair) : List Instr :=
  (table.zipIdx.map fun (p, i) => ldc (BitVec.ofNat 4 i) p.a1 p.a2).flatten

/-- The host's sequence for `encode(samples, blockSize, table, seedHistory)`, steps 1 to 6 of R202, for a table of 1 to 16
pairs. -/
def encodeCall (table : List CoefPair) (h1 h2 : Half) (samples : List Half) : List Instr :=
  [.ldn (BitVec.ofNat 4 (table.length - 1))] ++ loadTable table ++ seed h1 h2 ++ [.clr] ++
    ((blocksOf samples.length samples).map fun b => blk b ++ rdb).flatten ++ [.rdh1, .rdh2, .rdd, .rds]

end Sys2Proof.Machine
end

