-- ==== Sys2Proof/Machine/Assembler.lean ====
section
/-! DEFINITION. The assembler's line syntax (`30_encoding.md` R72, R73): one command per line, the mnemonic in upper case,
the operands separated by commas, an optional comment after `;`. A line is a list of characters. The details R72 leaves
open (where spaces may stand, how many digits) are DESIGN CHOICE, log 8. -/

namespace Sys2Proof.Machine

/-- An operand as it is written (R72). -/
inductive AsmOperand where
  /-- A decimal integer. -/
  | dec (x : Int)
  /-- A hexadecimal pattern. -/
  | hex (n : Nat)
deriving DecidableEq, Repr

/-- The value of a digit in a base up to 16. -/
def digitValue (base : Nat) (c : Char) : Option Nat :=
  let n := c.toNat
  let d := if 48 ≤ n ∧ n ≤ 57 then n - 48 else if 65 ≤ n ∧ n ≤ 70 then n - 55 else if 97 ≤ n ∧ n ≤ 102 then n - 87 else 16
  if d < base then some d else none

/-- Digits after a value already read. -/
def digitsFrom (base : Nat) : Nat → List Char → Option Nat
  | acc, [] => some acc
  | acc, c :: rest =>
    match digitValue base c with
    | some d => digitsFrom base (acc * base + d) rest
    | none => none

/-- At least one digit, and nothing else. -/
def digits (base : Nat) : List Char → Option Nat
  | [] => none
  | c :: rest => digitsFrom base 0 (c :: rest)

/-- An operand: `0x` and hexadecimal digits, or an optional minus sign and decimal digits. -/
def operandOf : List Char → Option AsmOperand
  | '0' :: 'x' :: rest => (digits 16 rest).map .hex
  | '-' :: rest => (digits 10 rest).map fun n => .dec (-n)
  | cs => (digits 10 cs).map fun n => .dec n

/-- Without the spaces before and after. -/
def trimSpaces (cs : List Char) : List Char :=
  ((cs.dropWhile (· == ' ')).reverse.dropWhile (· == ' ')).reverse

/-- The pieces between commas. -/
def splitCommas : List Char → List (List Char)
  | [] => [[]]
  | ',' :: rest => [] :: splitCommas rest
  | c :: rest =>
    match splitCommas rest with
    | [] => [[c]]
    | piece :: pieces => (c :: piece) :: pieces

/-- All operands of a line, or none if one of them cannot be read. -/
def operandsOf (cs : List Char) : Option (List AsmOperand) :=
  if cs = [] then some [] else (splitCommas cs).mapM fun piece => operandOf (trimSpaces piece)

/-- A line without its comment, as the mnemonic and the operands. -/
def splitLine (line : List Char) : List Char × List Char :=
  let code := trimSpaces (line.takeWhile (· != ';'))
  (code.takeWhile (· != ' '), trimSpaces (code.dropWhile (· != ' ')))

/-- An index operand: a decimal integer in the range its command allows. -/
def indexOperand (entries : Nat) : AsmOperand → Option Nibble
  | .dec x => if 0 ≤ x ∧ x < entries then some (BitVec.ofInt 4 x) else none
  | .hex _ => none

/-- An immediate operand: a decimal integer in `-32768 .. 32767` or a pattern in `0x0000 .. 0xFFFF`. -/
def immOperand : AsmOperand → Option Half
  | .dec x => if -32768 ≤ x ∧ x ≤ 32767 then some (BitVec.ofInt 16 x) else none
  | .hex n => if n ≤ 0xFFFF then some (BitVec.ofNat 16 n) else none

/-- A command with no operand. -/
def asmNone (i : Instr) : List AsmOperand → Option Instr
  | [] => some i
  | _ => none

/-- A command with an index. -/
def asmIdx (entries : Nat) (mk : Nibble → Instr) : List AsmOperand → Option Instr
  | [x] => (indexOperand entries x).map mk
  | _ => none

/-- A command with an immediate. -/
def asmImm (mk : Half → Instr) : List AsmOperand → Option Instr
  | [v] => (immOperand v).map mk
  | _ => none

/-- A command with an index and an immediate. -/
def asmIdxImm (entries : Nat) (mk : Nibble → Half → Instr) : List AsmOperand → Option Instr
  | [x, v] =>
    match indexOperand entries x, immOperand v with
    | some i, some h => some (mk i h)
    | _, _ => none
  | _ => none

/-- The command of a mnemonic and its operands, in the order of R68's column "operands". -/
def asmCommand (mnemonic : List Char) (ops : List AsmOperand) : Option Instr :=
  match mnemonic with
  | ['N', 'O', 'P'] => asmNone .nop ops
  | ['L', 'D', 'N'] => asmIdx 16 .ldn ops
  | ['L', 'D', 'A', '1'] => asmIdxImm 16 .lda1 ops
  | ['L', 'D', 'A', '2'] => asmIdxImm 16 .lda2 ops
  | ['L', 'D', 'H', '1'] => asmImm .ldh1 ops
  | ['L', 'D', 'H', '2'] => asmImm .ldh2 ops
  | ['L', 'D', 'S'] => asmIdxImm 14 .lds ops
  | ['E', 'N', 'C'] => asmNone .enc ops
  | ['R', 'D', 'O'] => asmIdx 8 .rdo ops
  | ['R', 'D', 'H', '1'] => asmNone .rdh1 ops
  | ['R', 'D', 'H', '2'] => asmNone .rdh2 ops
  | ['R', 'D', 'R'] => asmIdx 14 .rdr ops
  | ['R', 'D', 'D'] => asmNone .rdd ops
  | ['R', 'D', 'S'] => asmNone .rds ops
  | ['C', 'L', 'R'] => asmNone .clr ops
  | _ => none

/-- `LDC i, a1, a2` as the assembler reads it (R73). -/
def asmLdc : List AsmOperand → Option (List Instr)
  | [x, v1, v2] =>
    match indexOperand 16 x, immOperand v1, immOperand v2 with
    | some i, some a1, some a2 => some (ldc i a1 a2)
    | _, _, _ => none
  | _ => none

/-- `SEED h1, h2` as the assembler reads it (R73). -/
def asmSeed : List AsmOperand → Option (List Instr)
  | [v1, v2] =>
    match immOperand v1, immOperand v2 with
    | some h1, some h2 => some (seed h1 h2)
    | _, _ => none
  | _ => none

/-- `BLK s0, ..., s13` as the assembler reads it (R73). -/
def asmBlk (ops : List AsmOperand) : Option (List Instr) :=
  match ops.mapM immOperand with
  | some vs => if h : vs.length = 14 then some (blk ⟨vs.toArray, h⟩) else none
  | none => none

/-- `RDB` as the assembler reads it (R73). -/
def asmRdb : List AsmOperand → Option (List Instr)
  | [] => some rdb
  | _ => none

/-- The commands of a line: one for a command, the exact expansion for a pseudo-instruction (R73). -/
def asmExpand (mnemonic : List Char) (ops : List AsmOperand) : Option (List Instr) :=
  match mnemonic with
  | ['L', 'D', 'C'] => asmLdc ops
  | ['S', 'E', 'E', 'D'] => asmSeed ops
  | ['B', 'L', 'K'] => asmBlk ops
  | ['R', 'D', 'B'] => asmRdb ops
  | _ => (asmCommand mnemonic ops).map fun i => [i]

/-- A line's command words, or none where the assembler refuses the line (R72). -/
def assembleLine (line : List Char) : Option (List CmdWord) :=
  match operandsOf (splitLine line).2 with
  | some ops => (asmExpand (splitLine line).1 ops).map fun is => is.map encode
  | none => none

end Sys2Proof.Machine
end

