-- ==== Sys2Proof/Machine/Decoder.lean ====
section
/-! DEFINITION. Unpacking a block (`30_encoding.md` R64) and the reference decoder (`43_quantize.md` R127). Neither is
hardware of the unit and neither has a command: they are the functions the round-trip property is stated with. -/

namespace Sys2Proof.Machine

/-- The fields of an encoded block (R61, R62). -/
structure BlockFields where
  /-- `sel`, the index of the coefficient pair. -/
  sel : Nibble
  /-- `e`, the scale exponent. -/
  e : Nibble
  /-- `q[0..13]`, the codes in sample order. -/
  codes : List Nibble
deriving DecidableEq, Repr

/-- The high nibble of a byte, bits 7:4 (`00_scope.md` R10). -/
def highNibble (b : Byte) : Nibble := b.extractLsb' 4 4

/-- The low nibble of a byte, bits 3:0 (`00_scope.md` R10). -/
def lowNibble (b : Byte) : Nibble := b.extractLsb' 0 4

/-- The codes of payload bytes, the high nibble first (R42, R64). -/
def codesOf : List Byte → List Nibble
  | [] => []
  | b :: rest => highNibble b :: lowNibble b :: codesOf rest

/-- Unpacking (R64). -/
def unpack (b : Vector Byte 8) : BlockFields :=
  { sel := highNibble b[0], e := lowNibble b[0], codes := codesOf b.toList.tail }

/-- What decoding yields (R127). -/
structure Decoded where
  /-- `y[0..13]`. -/
  recon : Vector Half 14
  /-- The history after. -/
  hist1 : Half
  /-- The history after. -/
  hist2 : Half
deriving DecidableEq, Repr

/-- The decoder's pass over the codes: the reconstructed samples and the history after (R127). -/
def decodePass (a1 a2 : Int) (e : Nat) : Int → Int → List Nibble → List Int × Int × Int
  | h1, h2, [] => ([], h1, h2)
  | h1, h2, q :: rest =>
    let y := reconOf q e (predict a1 a2 h1 h2)
    let tail := decodePass a1 a2 e y h1 rest
    (y :: tail.1, tail.2)

/-- `Decode(B, COEF, H1, H2)` (R127). -/
def decodeBlock (b : Vector Byte 8) (coef : Vector CoefPair 16) (h1 h2 : Half) : Decoded :=
  let f := unpack b
  let p := coef[f.sel.toNat]'f.sel.isLt
  let r := decodePass p.a1.toInt p.a2.toInt f.e.toNat h1.toInt h2.toInt f.codes
  { recon := reconBuffer r.1, hist1 := BitVec.ofInt 16 r.2.1, hist2 := BitVec.ofInt 16 r.2.2 }

end Sys2Proof.Machine
end

