-- ==== Sys2Proof/Safety.lean ====
section
/-! DEFINITION. What counts as a clean run (`70_reset_and_hazards.md` R221), and the vocabulary of the claims: what the
host has sent so far says of the responses, of `CERR` and of the history. -/

namespace Sys2Proof.Machine

/-- A run is clean if `STATUS.CERR = 0` at its end (R221). -/
def State.clean (s : State) : Bool := !s.cerr

/-- The read commands (`30_encoding.md` R67). -/
def isRead : Instr → Bool
  | .nop => false
  | .ldn _ => false
  | .lda1 _ _ => false
  | .lda2 _ _ => false
  | .ldh1 _ => false
  | .ldh2 _ => false
  | .lds _ _ => false
  | .enc => false
  | .rdo _ => true
  | .rdh1 => true
  | .rdh2 => true
  | .rdr _ => true
  | .rdd => true
  | .rds => true
  | .clr => false

/-- The event is a legal read command: it sends one response (R67). -/
def sendsResponse : HostEvent → Bool
  | .reset => false
  | .command w =>
    match decode w with
    | .ok i => isRead i
    | .error _ => false

/-- Whether an illegal word has been received since the last `RESET`, after one more event. -/
def illegalAfter (before : Bool) : HostEvent → Bool
  | .reset => false
  | .command w => before || isIllegal w

/-- An illegal word has been received since the last `RESET` (`60_exceptions.md` R184). -/
def illegalReceived (done : List HostEvent) : Bool := done.foldl illegalAfter false

/-- Whether the host has written the history since the last `ENC` or `RESET`, after one more event. -/
def hostHistoryAfter (before : Bool) : HostEvent → Bool
  | .reset => false
  | .command w =>
    match decode w with
    | .ok .enc => false
    | .ok (.ldh1 _) => true
    | .ok (.ldh2 _) => true
    | .ok _ => before
    | .error _ => before

/-- The host has written the history since the last `ENC` or `RESET` (`70_reset_and_hazards.md` R214). -/
def hostWroteHistory (done : List HostEvent) : Bool := done.foldl hostHistoryAfter false

/-- One response has left per legal read command taken, and none for anything else (`20_memory.md` R48); `sent` is all the
host has sent. -/
def ResponsesMatchReads (sent : List HostEvent) (s : State) : Prop :=
  ∃ done, done ++ s.pending = sent ∧ s.responses.length = (done.filter sendsResponse).length

/-- `CERR` is set exactly when an illegal word has been taken since the last `RESET` (`60_exceptions.md` R184). -/
def CerrMarksIllegalWords (sent : List HostEvent) (s : State) : Prop :=
  ∃ done, done ++ s.pending = sent ∧ s.cerr = illegalReceived done

/-- While the host leaves the history alone, it is the last two reconstructed samples (`10_state.md` R22,
`44_encode_command.md` R143). -/
def HistoryIsReconstruction (sent : List HostEvent) (s : State) : Prop :=
  ∃ done, done ++ s.pending = sent ∧
    (hostWroteHistory done = false → s.hist1 = s.recon[13] ∧ s.hist2 = s.recon[12])

/-- Two states agree on the elements `ENC` reads: the history, `N`, the candidates and the block (`10_state.md` R23). -/
def SameEncInputs (s t : State) : Prop :=
  s.hist1 = t.hist1 ∧ s.hist2 = t.hist2 ∧ s.nm1 = t.nm1 ∧ s.sample = t.sample ∧
    ∀ i : Fin 16, i.val ≤ s.nm1.toNat → s.coef[i] = t.coef[i]

/-- The elements that decide what later commands do to the machine (`10_state.md` R23): the history, the table, `N` and
the block. -/
def SameInputs (s t : State) : Prop :=
  s.hist1 = t.hist1 ∧ s.hist2 = t.hist2 ∧ s.coef = t.coef ∧ s.nm1 = t.nm1 ∧ s.sample = t.sample

/-! ## `Replay` in closed form

The claims about the selector and the scale are stated with these, written from `41_select.md` R100 sample by sample; that
the model's `State.replay` computes them is a claim of its own. -/

/-- The local history of a replay as one sequence: entry 0 is `H2`, entry 1 is `H1`, and entry k + 2 is what sample k
leaves, the clamped prediction (R100). -/
def localHistory (a1 a2 h1 h2 : Int) : Nat → Int
  | 0 => h2
  | 1 => h1
  | k + 2 =>
    max (-32768) (min 32767 ((localHistory a1 a2 h1 h2 (k + 1) * a1 + localHistory a1 a2 h1 h2 k * a2) / 2 ^ 11))

/-- `err` of sample k in the replay of a pair from the entering history (R100). -/
def State.replayErr (s : State) (p : CoefPair) (k : Fin 14) : Int :=
  let h := localHistory p.a1.toInt p.a2.toInt s.hist1.toInt s.hist2.toInt
  s.sample[k].toInt * 2 ^ 11 - (h (k.val + 1) * p.a1.toInt + h k.val * p.a2.toInt) - 1024

/-- `acc` of a pair: the signed sum over the block (R100, R101). -/
def State.replayAcc (s : State) (p : CoefPair) : Int := ∑ k : Fin 14, s.replayErr p k

/-- `r[k]` of the range pass (`42_scale.md` R110): `err` shifted right by 11. -/
def State.rangeResidual (s : State) (p : CoefPair) (k : Fin 14) : Int := s.replayErr p k / 2 ^ 11

/-- The exponent's step covers every residual of the range pass (`42_scale.md` R112). -/
def State.covers (s : State) (p : CoefPair) (e : Nat) : Prop :=
  ∀ k : Fin 14, s.rangeResidual p k < 2 ^ (e + 3) ∧ -s.rangeResidual p k ≤ 2 ^ (e + 3)

end Sys2Proof.Machine
end

