-- ==== Sys2Proof/Certificates/Slice0/Obligations.lean ====
section
/-! DEFINITION. The statements for the provers. Each docstring names the rule of spec/ it formalises. A docstring that says
"the spec's own inference" or names a log entry rests on something that is no rule of the spec. -/

open Sys2Proof Sys2Proof.Machine

/-! ## The command word -/

/-- R65, R68: every command's word decodes to it, with every operand at every value its field admits. -/
def Obligations.DecodeOfEncode : Prop :=
  ∀ i : Instr, i.wellFormed = true → decode (encode i) = .ok i

/-- R68, R69: a word the decoder accepts is the word of a command of R68, and of no other command. -/
def Obligations.EncodeOfDecode : Prop :=
  ∀ (w : CmdWord) (i : Instr), decode w = .ok i → i.wellFormed = true ∧ encode i = w

/-- R68: a word is the command of a row exactly when `(W & mask) = match` and the row's extra constraint holds; every legal
word is some row's; the rows' match sets are disjoint. -/
def Obligations.OpcodeMapDecides : Prop :=
  (∀ (w : CmdWord), ∀ r ∈ opcodeRows,
    (r.covers w = true ↔ decode w = .ok (r.instr (fieldIdx w) (fieldImm w)))) ∧
  (∀ (w : CmdWord) (i : Instr), decode w = .ok i → ∃ r ∈ opcodeRows, r.covers w = true) ∧
  opcodeRows.Pairwise (fun r₁ r₂ => ∀ w : CmdWord, ¬(r₁.covers w = true ∧ r₂.covers w = true))

/-- R69: the illegal words are those of clauses (a) to (f); the effect of one is `CERR <- 1` and nothing else; every word
is either exactly one command or illegal. -/
def Obligations.IllegalWordsAndTheirEffect : Prop :=
  (∀ w : CmdWord, isIllegal w = true ↔
    let op := (w.extractLsb' 28 4).toNat
    let idx := (w.extractLsb' 24 4).toNat
    let pad := (w.extractLsb' 16 8).toNat
    let imm := (w.extractLsb' 0 16).toNat
    op = 0xF ∨ pad ≠ 0 ∨
      (idx ≠ 0 ∧ op ∈ [0x0, 0x4, 0x5, 0x7, 0x9, 0xA, 0xC, 0xD, 0xE]) ∨
      (imm ≠ 0 ∧ op ∈ [0x0, 0x1, 0x7, 0x8, 0x9, 0xA, 0xB, 0xC, 0xD, 0xE]) ∨
      ((op = 0x6 ∨ op = 0xB) ∧ 14 ≤ idx) ∨ (op = 0x8 ∧ 8 ≤ idx)) ∧
  (∀ (w : CmdWord) (s : State), isIllegal w = true → runWord w s = .next { s with cerr := true }) ∧
  (∀ w : CmdWord, isIllegal w = false ↔ ∃ i, decode w = .ok i)

/-- Words of the spec's vectors, one for each command, and what they stand for (`96_test_vectors_quantize.md` V-CMD,
`97_test_programs.md`). -/
def Obligations.SpecWordsDecode : Prop :=
  decode 0x00000000 = .ok .nop ∧ decode 0x17000000 = .ok (.ldn 7) ∧ decode 0x20001000 = .ok (.lda1 0 4096) ∧
  decode 0x3000F800 = .ok (.lda2 0 (-2048)) ∧ decode 0x4000FF9C = .ok (.ldh1 (-100)) ∧
  decode 0x5000FF38 = .ok (.ldh2 (-200)) ∧ decode 0x6D000514 = .ok (.lds 13 1300) ∧ decode 0x70000000 = .ok .enc ∧
  decode 0x87000000 = .ok (.rdo 7) ∧ decode 0x90000000 = .ok .rdh1 ∧ decode 0xA0000000 = .ok .rdh2 ∧
  decode 0xBA000000 = .ok (.rdr 10) ∧ decode 0xC0000000 = .ok .rdd ∧ decode 0xD0000000 = .ok .rds ∧
  decode 0xE0000000 = .ok .clr

/-! ## The step and the channels -/

/-- A step runs the decoded command on the state the unit is in once it has taken the word (log 1: the channel is the
model's). Nothing else is done around `exec`. -/
def Obligations.StepRunsDecodedCommand : Prop :=
  ∀ (w : CmdWord) (i : Instr) (rest : List HostEvent) (s : State),
    s.pending = .command w :: rest → decode w = .ok i → step s = exec i { s with pending := rest }

/-- With nothing pending the unit keeps all state: the model's choice, log 3 (`60_exceptions.md` R190, "between commands
the BE is idle and keeps all state"). -/
def Obligations.IdleStepKeepsState : Prop :=
  ∀ s : State, s.pending = [] → step s = .next s

/-- R31, R200: the `RESET` event sets every state element to zero; it is taken like any event, and what the host has still
to send and what has been answered stay (log 1, 2). -/
def Obligations.ResetEventZeroesEveryElement : Prop :=
  ∀ (rest : List HostEvent) (s : State), s.pending = .reset :: rest →
    ∃ t, step s = .next t ∧ t.hist1 = 0 ∧ t.hist2 = 0 ∧ (∀ i : Fin 16, t.coef[i].a1 = 0 ∧ t.coef[i].a2 = 0) ∧
      t.nm1 = 0 ∧ (∀ k : Fin 14, t.sample[k] = 0) ∧ (∀ j : Fin 8, t.out[j] = 0) ∧ (∀ k : Fin 14, t.recon[k] = 0) ∧
      t.diag = 0 ∧ t.sovf = false ∧ t.cerr = false ∧ t.pending = rest ∧ t.responses = s.responses

/-- R31: what `State.reset` holds, element by element. -/
def Obligations.ResetStateValues : Prop :=
  State.reset.hist1 = 0 ∧ State.reset.hist2 = 0 ∧
  (∀ i : Fin 16, State.reset.coef[i].a1 = 0 ∧ State.reset.coef[i].a2 = 0) ∧
  State.reset.nm1 = 0 ∧ State.reset.candidateCount = 1 ∧ (∀ k : Fin 14, State.reset.sample[k] = 0) ∧
  (∀ j : Fin 8, State.reset.out[j] = 0) ∧ (∀ k : Fin 14, State.reset.recon[k] = 0) ∧ State.reset.diag = 0 ∧
  State.reset.sovf = false ∧ State.reset.cerr = false

/-- R180, R172: every command, legal or illegal, completes as one step, from every state, and the next one is taken after
it. Three cases are the model's: that the channel is the list `pending` (log 1), that a step with nothing pending completes
too (log 3, after R190), and that `exec` completes on an instruction whose index names nothing (log 7). -/
def Obligations.EveryStepCompletes : Prop :=
  (∀ (i : Instr) (s : State), ∃ t, exec i s = .next t ∧ t.pending = s.pending) ∧
  (∀ s : State, ∃ t, step s = .next t ∧ t.pending = s.pending.tail)

/-! ## Loads -/

/-- R151: the word, when it is illegal, and the effect of `LDN n`. -/
def Obligations.LdnSetsCandidateCount : Prop :=
  (∀ n : Nibble, decode (0x1#4 ++ n ++ 0#24) = .ok (.ldn n)) ∧
  (∀ w : CmdWord, fieldOp w = 0x1 → (isIllegal w = true ↔ fieldImm w ≠ 0 ∨ fieldZero w ≠ 0)) ∧
  (∀ (n : Nibble) (s : State), ∃ t, exec (.ldn n) s = .next t ∧ t = { s with nm1 := n } ∧
    t.candidateCount = n.toNat + 1)

/-- R152: the word, when it is illegal, and the effect of `LDA1 i, v`: one coefficient of one slot, nothing else. -/
def Obligations.Lda1WritesFirstCoefficient : Prop :=
  (∀ (i : Nibble) (v : Half), decode (0x2#4 ++ i ++ 0#8 ++ v) = .ok (.lda1 i v)) ∧
  (∀ w : CmdWord, fieldOp w = 0x2 → (isIllegal w = true ↔ fieldZero w ≠ 0)) ∧
  (∀ (i : Nibble) (v : Half) (s : State), ∃ t, exec (.lda1 i v) s = .next t ∧
    (∀ j : Fin 16, j.val = i.toNat → t.coef[j].a1 = v ∧ t.coef[j].a2 = s.coef[j].a2) ∧
    (∀ j : Fin 16, j.val ≠ i.toNat → t.coef[j] = s.coef[j]) ∧ { t with coef := s.coef } = s)

/-- R153: the word, when it is illegal, and the effect of `LDA2 i, v`: one coefficient of one slot, nothing else. -/
def Obligations.Lda2WritesSecondCoefficient : Prop :=
  (∀ (i : Nibble) (v : Half), decode (0x3#4 ++ i ++ 0#8 ++ v) = .ok (.lda2 i v)) ∧
  (∀ w : CmdWord, fieldOp w = 0x3 → (isIllegal w = true ↔ fieldZero w ≠ 0)) ∧
  (∀ (i : Nibble) (v : Half) (s : State), ∃ t, exec (.lda2 i v) s = .next t ∧
    (∀ j : Fin 16, j.val = i.toNat → t.coef[j].a2 = v ∧ t.coef[j].a1 = s.coef[j].a1) ∧
    (∀ j : Fin 16, j.val ≠ i.toNat → t.coef[j] = s.coef[j]) ∧ { t with coef := s.coef } = s)

/-- R154: the word, when it is illegal, and the effect of `LDH1 v`. -/
def Obligations.Ldh1WritesHist1 : Prop :=
  (∀ v : Half, decode (0x4000#16 ++ v) = .ok (.ldh1 v)) ∧
  (∀ w : CmdWord, fieldOp w = 0x4 → (isIllegal w = true ↔ fieldIdx w ≠ 0 ∨ fieldZero w ≠ 0)) ∧
  (∀ (v : Half) (s : State), exec (.ldh1 v) s = .next { s with hist1 := v })

/-- R155: the word, when it is illegal, and the effect of `LDH2 v`. -/
def Obligations.Ldh2WritesHist2 : Prop :=
  (∀ v : Half, decode (0x5000#16 ++ v) = .ok (.ldh2 v)) ∧
  (∀ w : CmdWord, fieldOp w = 0x5 → (isIllegal w = true ↔ fieldIdx w ≠ 0 ∨ fieldZero w ≠ 0)) ∧
  (∀ (v : Half) (s : State), exec (.ldh2 v) s = .next { s with hist2 := v })

/-- R156: the word, when it is illegal, and the effect of `LDS k, v`: one entry of `SAMPLE`, nothing else. -/
def Obligations.LdsWritesOneSample : Prop :=
  (∀ (k : Nibble) (v : Half), k.toNat ≤ 13 → decode (0x6#4 ++ k ++ 0#8 ++ v) = .ok (.lds k v)) ∧
  (∀ w : CmdWord, fieldOp w = 0x6 → (isIllegal w = true ↔ 14 ≤ (fieldIdx w).toNat ∨ fieldZero w ≠ 0)) ∧
  (∀ (k : Nibble) (v : Half) (s : State), k.toNat ≤ 13 → ∃ t, exec (.lds k v) s = .next t ∧
    (∀ j : Fin 14, j.val = k.toNat → t.sample[j] = v) ∧
    (∀ j : Fin 14, j.val ≠ k.toNat → t.sample[j] = s.sample[j]) ∧ { t with sample := s.sample } = s)

/-- R66: an immediate is its sign-extended value, in `-32768 .. 32767`, and is put into a 16-bit element whole
(two's complement, log 9). -/
def Obligations.ImmediateIsSignExtended : Prop :=
  ∀ v : Half, (v.getLsbD 15 = true → sext16 v = (v.toNat : Int) - 65536) ∧
    (v.getLsbD 15 = false → sext16 v = v.toNat) ∧ -32768 ≤ sext16 v ∧ sext16 v ≤ 32767 ∧
    (loadOperand v).toInt = sext16 v ∧ loadOperand v = v

/-! ## Reads -/

/-- R157: the word, when it is illegal, and the response of `RDO j`. -/
def Obligations.RdoRespondsWithByte : Prop :=
  (∀ j : Nibble, j.toNat ≤ 7 → decode (0x8#4 ++ j ++ 0#24) = .ok (.rdo j)) ∧
  (∀ w : CmdWord, fieldOp w = 0x8 →
    (isIllegal w = true ↔ 8 ≤ (fieldIdx w).toNat ∨ fieldImm w ≠ 0 ∨ fieldZero w ≠ 0)) ∧
  (∀ (j : Nibble) (k : Fin 8) (s : State), k.val = j.toNat → ∃ v : RspWord, v.toNat = (s.out[k]).toNat ∧
    exec (.rdo j) s = .next { s with responses := s.responses ++ [v] })

/-- R158, R159: the words, when they are illegal, and the responses of `RDH1` and `RDH2`. -/
def Obligations.HistoryReadsRespondWithHistory : Prop :=
  decode 0x90000000 = .ok .rdh1 ∧ decode 0xA0000000 = .ok .rdh2 ∧
  (∀ w : CmdWord, fieldOp w = 0x9 ∨ fieldOp w = 0xA →
    (isIllegal w = true ↔ fieldIdx w ≠ 0 ∨ fieldZero w ≠ 0 ∨ fieldImm w ≠ 0)) ∧
  (∀ s : State, ∃ v : RspWord, v.toInt = s.hist1.toInt ∧
    exec .rdh1 s = .next { s with responses := s.responses ++ [v] }) ∧
  (∀ s : State, ∃ v : RspWord, v.toInt = s.hist2.toInt ∧
    exec .rdh2 s = .next { s with responses := s.responses ++ [v] })

/-- R160: the word, when it is illegal, and the response of `RDR k`. -/
def Obligations.RdrRespondsWithReconstruction : Prop :=
  (∀ k : Nibble, k.toNat ≤ 13 → decode (0xB#4 ++ k ++ 0#24) = .ok (.rdr k)) ∧
  (∀ w : CmdWord, fieldOp w = 0xB →
    (isIllegal w = true ↔ 14 ≤ (fieldIdx w).toNat ∨ fieldImm w ≠ 0 ∨ fieldZero w ≠ 0)) ∧
  (∀ (k : Nibble) (j : Fin 14) (s : State), j.val = k.toNat → ∃ v : RspWord, v.toInt = (s.recon[j]).toInt ∧
    exec (.rdr k) s = .next { s with responses := s.responses ++ [v] })

/-- R161: the word, when it is illegal, and the response of `RDD`. -/
def Obligations.RddRespondsWithDiag : Prop :=
  decode 0xC0000000 = .ok .rdd ∧
  (∀ w : CmdWord, fieldOp w = 0xC →
    (isIllegal w = true ↔ fieldIdx w ≠ 0 ∨ fieldZero w ≠ 0 ∨ fieldImm w ≠ 0)) ∧
  (∀ s : State, exec .rdd s = .next { s with responses := s.responses ++ [s.diag] })

/-- R162, R26: the word, when it is illegal, and the response of `RDS`: bit 0 `SOVF`, bit 1 `CERR`, bits 63:2 zero;
reading does not clear. -/
def Obligations.RdsRespondsWithStatus : Prop :=
  decode 0xD0000000 = .ok .rds ∧
  (∀ w : CmdWord, fieldOp w = 0xD →
    (isIllegal w = true ↔ fieldIdx w ≠ 0 ∨ fieldZero w ≠ 0 ∨ fieldImm w ≠ 0)) ∧
  (∀ s : State, ∃ v : RspWord, v.getLsbD 0 = s.sovf ∧ v.getLsbD 1 = s.cerr ∧
    (∀ n : Nat, 2 ≤ n → v.getLsbD n = false) ∧ exec .rds s = .next { s with responses := s.responses ++ [v] })

/-- An ill-formed command, with an index that names nothing, is illegal: `CERR <- 1` and nothing else (R44). The decoder
yields none; that `exec` is defined there is the model's, log 7. -/
def Obligations.IndexOutOfRangeIsIllegal : Prop :=
  (∀ (k : Nibble) (v : Half) (s : State), 14 ≤ k.toNat → exec (.lds k v) s = .next { s with cerr := true }) ∧
  (∀ (k : Nibble) (s : State), 14 ≤ k.toNat → exec (.rdr k) s = .next { s with cerr := true }) ∧
  (∀ (j : Nibble) (s : State), 8 ≤ j.toNat → exec (.rdo j) s = .next { s with cerr := true })

/-! ## System commands -/

/-- R170: `NOP` is the all-zero word and no other word with op 0x0; it changes nothing and answers nothing. -/
def Obligations.NopChangesNothing : Prop :=
  decode 0x00000000 = .ok .nop ∧ (∀ w : CmdWord, fieldOp w = 0x0 → w ≠ 0 → isIllegal w = true) ∧
  (∀ s : State, exec .nop s = .next s)

/-- R171: the word, when it is illegal, and the effect of `CLR`: `DIAG` and `SOVF`, nothing else; between blocks it affects
neither the encoded bytes, the reconstruction nor the history of the next `ENC`. -/
def Obligations.ClrClearsDiagnostics : Prop :=
  decode 0xE0000000 = .ok .clr ∧
  (∀ w : CmdWord, fieldOp w = 0xE →
    (isIllegal w = true ↔ fieldIdx w ≠ 0 ∨ fieldZero w ≠ 0 ∨ fieldImm w ≠ 0)) ∧
  (∀ s : State, exec .clr s = .next { s with diag := 0, sovf := false }) ∧
  (∀ s t u : State, exec .clr s = .next t → exec .enc s = .next u →
    ∃ u', exec .enc t = .next u' ∧ { u' with diag := u.diag, sovf := u.sovf } = u)

/-! ## `ENC` -/

/-- R100, R101: the model's `Replay` is the closed form, sample by sample: the local history follows the clamped
predictions, `err` is the scaled sample less the prediction term less 1024, `acc` is the signed sum, the shifted residuals
are `err >> 11`. -/
def Obligations.ReplayFollowsPredictions : Prop :=
  ∀ (s : State) (p : CoefPair), s.replay p = List.ofFn (s.replayErr p) ∧ s.accOf p = s.replayAcc p ∧
    s.rangePass p = List.ofFn (s.rangeResidual p)

/-- R102, R103: the chosen index, the header's high nibble, is the least candidate index whose accumulated signed error is
smallest in absolute value. -/
def Obligations.EncChoosesLeastMagnitude : Prop :=
  ∀ s : State, ∃ t, exec .enc s = .next t ∧ ∃ sel : Fin 16, sel.val = (t.out[0]).toNat / 16 ∧
    sel.val ≤ s.nm1.toNat ∧
    (∀ i : Fin 16, i.val ≤ s.nm1.toNat → |s.replayAcc s.coef[sel]| ≤ |s.replayAcc s.coef[i]|) ∧
    (∀ i : Fin 16, i.val < sel.val → |s.replayAcc s.coef[sel]| < |s.replayAcc s.coef[i]|)

/-- R110 to R113: the exponent, the header's low nibble, is the smallest in 0..15 whose step covers every residual of the
range pass, `SOVF` staying as it was; where none does, which is where a residual is at least 262144 or at most -262145, it is
15 and `SOVF` is set. -/
def Obligations.EncScaleIsLeastExponent : Prop :=
  ∀ s : State, ∃ t, exec .enc s = .next t ∧ ∃ (sel : Fin 16) (e : Nat),
    sel.val = (t.out[0]).toNat / 16 ∧ e = (t.out[0]).toNat % 16 ∧
    ((∃ e', e' ≤ 15 ∧ s.covers s.coef[sel] e') →
      s.covers s.coef[sel] e ∧ (∀ e', e' < e → ¬s.covers s.coef[sel] e') ∧ t.sovf = s.sovf) ∧
    ((∀ e', e' ≤ 15 → ¬s.covers s.coef[sel] e') → e = 15 ∧ t.sovf = true) ∧
    ((∀ e', e' ≤ 15 → ¬s.covers s.coef[sel] e') ↔
      ∃ k : Fin 14, 262144 ≤ s.rangeResidual s.coef[sel] k ∨ s.rangeResidual s.coef[sel] k ≤ -262145)

/-- R120 to R126, R129, R22: the final pass, sample by sample, in the arithmetic of `40_arithmetic.md`. With H the sequence
`HIST2, HIST1, RECON[0], RECON[1], ...`, sample k is predicted from H(k+1) and H(k), its code is the nibble the block holds
for it, its reconstruction is `RECON[k]`; the history afterwards is `RECON[13]`, `RECON[12]`; `DIAG` gains the sum of
original minus reconstructed, modulo `2^64`. -/
def Obligations.EncFinalPass : Prop :=
  ∀ s : State, ∃ t, exec .enc s = .next t ∧ ∃ (sel : Fin 16) (e : Nat),
    sel.val = (t.out[0]).toNat / 16 ∧ e = (t.out[0]).toNat % 16 ∧
    (∀ k : Fin 14,
      let H := fun j : Nat => (((s.hist2 :: s.hist1 :: t.recon.toList).getD j 0).toInt : Int)
      let p := H (k.val + 1) * s.coef[sel].a1.toInt + H k.val * s.coef[sel].a2.toInt
      let r := (s.sample[k].toInt * 2 ^ 11 - p - 1024) / 2 ^ 11
      let byte : Nat := (t.out.toList.getD (1 + k.val / 2) 0).toNat
      let q : Int := if k.val % 2 = 0 then byte / 16 else byte % 16
      let c : Int := if q ≤ 7 then q else q - 16
      q = (r / 2 ^ e) % 16 ∧
      t.recon[k].toInt = max (-32768) (min 32767 ((c * 2 ^ e * 2 ^ 11 + 1024 + p) / 2 ^ 11))) ∧
    t.hist1 = t.recon[13] ∧ t.hist2 = t.recon[12] ∧
    t.diag = BitVec.ofInt 64 (s.diag.toInt + ∑ k : Fin 14, (s.sample[k].toInt - t.recon[k].toInt))

/-- R140, R141: from every state `ENC` completes; it writes nothing but `OUT`, `RECON`, `HIST1`, `HIST2`, `DIAG` and `SOVF`,
the last never cleared; it sends no response. -/
def Obligations.EncFrame : Prop :=
  ∀ s : State, ∃ t, exec .enc s = .next t ∧ t.sample = s.sample ∧ t.coef = s.coef ∧ t.nm1 = s.nm1 ∧
    t.cerr = s.cerr ∧ (s.sovf = true → t.sovf = true) ∧ t.pending = s.pending ∧ t.responses = s.responses

/-- R23 (the spec's own inference from R140): what `ENC` writes to `OUT`, `RECON`, `HIST1`, `HIST2` depends on the history,
`N`, the candidates and the block alone; slots at or above `N`, the outputs, the diagnostics and the flags do not
matter. -/
def Obligations.EncReadsOnlyItsInputs : Prop :=
  ∀ s s' : State, SameEncInputs s s' → ∃ t t', exec .enc s = .next t ∧ exec .enc s' = .next t' ∧
    t.out = t'.out ∧ t.recon = t'.recon ∧ t.hist1 = t'.hist1 ∧ t.hist2 = t'.hist2

/-- R128 (the spec's own inference): decoding the block with the same table and entering history gives back what the
encoder reconstructed and the history it left, for every state: wrapped codes, saturation and an unreachable scale
included. -/
def Obligations.EncRoundTrip : Prop :=
  ∀ s : State, ∃ t, exec .enc s = .next t ∧
    decodeBlock t.out s.coef s.hist1 s.hist2 = { recon := t.recon, hist1 := t.hist1, hist2 := t.hist2 }

/-- R143, chained: two blocks of one stream, the block reloaded in between and nothing else touched, decode in sequence
from the seed history to what the encoder reconstructed (the spec's own inference, R128). -/
def Obligations.ConsecutiveBlocksDecodeInSequence : Prop :=
  ∀ (s : State) (block : Vector Half 14), ∃ t u, exec .enc s = .next t ∧
    exec .enc { t with sample := block } = .next u ∧
    let d := decodeBlock t.out s.coef s.hist1 s.hist2
    d.recon = t.recon ∧ (decodeBlock u.out s.coef d.hist1 d.hist2).recon = u.recon

/-- Silence, as far as R85 to R88 bear R91's last sentence out (log 11). A zero pair alone, whatever the history, and a
zero pair in slot 0 with any other candidates and zero history (`97_test_programs.md` P4, `95_test_vectors.md` V-SEL-3):
codes all 0xF, reconstructions all -1, `DIAG` gains 14. Any coefficients and zero history: every candidate ties, so index 0
and exponent 0 are stored, and the first sample codes to 0xF and reconstructs to -1. -/
def Obligations.SilenceWithZeroPair : Prop :=
  (∀ s : State, s.nm1 = 0 ∨ (s.hist1 = 0 ∧ s.hist2 = 0) → s.coef[0] = ⟨0, 0⟩ → s.sample = Vector.replicate 14 0 →
    exec .enc s = .next { s with
      out := #v[0x00, 0xFF, 0xFF, 0xFF, 0xFF, 0xFF, 0xFF, 0xFF], recon := Vector.replicate 14 (-1),
      hist1 := -1, hist2 := -1, diag := s.diag + 14 }) ∧
  (∀ s : State, s.hist1 = 0 → s.hist2 = 0 → s.sample = Vector.replicate 14 0 →
    ∃ t, exec .enc s = .next t ∧ t.out[0] = 0x00 ∧ (t.out[1]).toNat / 16 = 0xF ∧ t.recon[0] = -1 ∧ t.sovf = s.sovf)

/-- The last sentence of R91, an inference of the spec's own that its rules R85 to R88 do not bear out (log 11): an
all-zero block with zero history and ANY coefficients encodes to codes 0xF. Expected to fail: with the pair `(2048, 0)`
the second sample's code is 0. -/
def Obligations.SilenceCodesForAnyCoefficients : Prop :=
  ∀ s : State, s.hist1 = 0 → s.hist2 = 0 → s.sample = Vector.replicate 14 0 →
    ∃ t, exec .enc s = .next t ∧ ∀ j : Fin 7, t.out[j.val + 1] = 0xFF

/-! ## The stage functions -/

/-- R81, R82: the left shift is exact multiplication, the right shift the floor of the quotient. -/
def Obligations.ShiftsMultiplyAndFloor : Prop :=
  ∀ (x : Int) (k : Nat), shl x k = x * 2 ^ k ∧ asr x k * 2 ^ k ≤ x ∧ x < (asr x k + 1) * 2 ^ k ∧ asr x 0 = x

/-- R84: the mask is the value modulo 16, the sign extension the value in -8..7 congruent to it and the only one; they
invert each other on -8..7. -/
def Obligations.NibbleMaskAndSignExtension : Prop :=
  (∀ x : Int, ((maskNibble x).toNat : Int) = x % 16) ∧
  (∀ q : Nibble, (q.toNat ≤ 7 → sext4 q = q.toNat) ∧ (7 < q.toNat → sext4 q = (q.toNat : Int) - 16)) ∧
  (∀ x : Int, -8 ≤ x → x ≤ 7 → sext4 (maskNibble x) = x) ∧
  (∀ x y : Int, (-8 ≤ y ∧ y ≤ 7 ∧ y % 16 = x % 16) ↔ y = sext4 (maskNibble x))

/-- R89 (the spec's own inference): the ranges of the intermediates over all signed 16-bit operands, of `acc` over a
block among them. -/
def Obligations.IntermediateRanges : Prop :=
  (∀ h a : Half, -1073709056 ≤ h.toInt * a.toInt ∧ h.toInt * a.toInt ≤ 1073741824) ∧
  (∀ a1 a2 h1 h2 : Half, let t := predict a1.toInt a2.toInt h1.toInt h2.toInt;
    -2147418112 ≤ t ∧ t ≤ 2147483648 ∧ -1048544 ≤ asr t 11 ∧ asr t 11 ≤ 1048576) ∧
  (∀ a1 a2 h1 h2 s : Half, let t := predict a1.toInt a2.toInt h1.toInt h2.toInt;
    -67108864 ≤ shl s.toInt 11 ∧ shl s.toInt 11 ≤ 67106816 ∧
    -2214593536 ≤ errOf s.toInt t ∧ errOf s.toInt t ≤ 2214523904 ∧
    -1081345 ≤ resOf s.toInt t ∧ resOf s.toInt t ≤ 1081310 ∧
    ∀ e : Nat, -1081345 ≤ asr (resOf s.toInt t) e ∧ asr (resOf s.toInt t) e ≤ 1081310) ∧
  (∀ (a1 a2 h1 h2 : Half) (q : Nibble) (e : Nat), e ≤ 15 → let t := predict a1.toInt a2.toInt h1.toInt h2.toInt;
    let m := shl (shl (sext4 q) e) 11;
    -536870912 ≤ m ∧ m ≤ 469762048 ∧ -2684288000 ≤ m + 1024 + t ∧ m + 1024 + t ≤ 2617246720) ∧
  (∀ (s : State) (p : CoefPair), -31004309504 ≤ s.accOf p ∧ s.accOf p ≤ 31003334656)

/-- R90: `ENC` adds to `DIAG` the block's sum of sample minus reconstruction, an integer in -917490..917490, through
`wrap64`; `wrap64` is the value in the signed 64-bit range congruent modulo `2^64`. -/
def Obligations.DiagArithmeticWraps : Prop :=
  (∀ s : State, ∃ t, exec .enc s = .next t ∧
    let d := ∑ k : Fin 14, (s.sample[k].toInt - t.recon[k].toInt);
    -917490 ≤ d ∧ d ≤ 917490 ∧ t.diag = wrap64 (s.diag.toInt + d)) ∧
  (∀ x y : Int, (-2 ^ 63 ≤ y ∧ y ≤ 2 ^ 63 - 1 ∧ y % 2 ^ 64 = x % 2 ^ 64) ↔ y = (wrap64 x).toInt)

/-- R91 (the spec's own inference, its first sentence): with `e = 0` and a residual in -8..7, the reconstruction is the
sample where the scaled error is a multiple of 2048, and one less, clamped to -32768, everywhere else. The clamp acts at the
sample -32768 alone, where R88 departs from R91's sentence and the model follows R88 (log 11). -/
def Obligations.ExactCodeReconstruction : Prop :=
  ∀ (s : Half) (t : Int), -8 ≤ resOf s.toInt t → resOf s.toInt t ≤ 7 →
    reconOf (maskNibble (resOf s.toInt t)) 0 t =
      if errOf s.toInt t % 2048 = 0 then s.toInt else max (-32768) (s.toInt - 1)

/-- R112, R113: the exponent is the smallest in 0..15 that passes the range test; where none passes it is 15, and that is
where `rmax >= 262144` or `rmin <= -262145`. -/
def Obligations.ScaleIsLeastFittingExponent : Prop :=
  ∀ rmax rmin : Int,
    (∀ e : Nat, scale rmax rmin = (e, false) ↔
      e ≤ 15 ∧ 2 ^ (e + 3) > rmax ∧ 2 ^ (e + 3) ≥ -rmin ∧
        ∀ e' : Nat, e' < e → ¬((2 : Int) ^ (e' + 3) > rmax ∧ 2 ^ (e' + 3) ≥ -rmin)) ∧
    (scale rmax rmin = (15, true) ↔ 262144 ≤ rmax ∨ rmin ≤ -262145) ∧
    ((scale rmax rmin).2 = true → (scale rmax rmin).1 = 15)

/-- R114 (the spec's own inference): where an exponent is found, every residual between the extremes fits a signed nibble
after the shift. -/
def Obligations.FoundExponentCoversResiduals : Prop :=
  ∀ (rs : List Int) (e : Nat), scale (maxOf rs) (minOf rs) = (e, false) →
    ∀ r ∈ rs, -8 ≤ asr r e ∧ asr r e ≤ 7

/-- R115 (the spec's own inference): starting the running extremes at zero gives the same exponent. -/
def Obligations.ExtremesMayStartAtZero : Prop :=
  ∀ rmax rmin : Int, rmin ≤ rmax → scale (max 0 rmax) (min 0 rmin) = scale rmax rmin

/-- R61, R62, R126, R41, R42: the layout of a block: the header is `sel` in the high nibble and `e` in the low one, payload
byte 1 + j holds the code of sample 2j high and of sample 2j + 1 low. -/
def Obligations.PackLayout : Prop :=
  ∀ (sel : Nibble) (e : Nat) (codes : List Nibble), e ≤ 15 → codes.length = 14 →
    ((pack sel e codes)[0]).toNat = sel.toNat * 16 + e ∧
    ∀ j : Fin 7, ((pack sel e codes)[j.val + 1]).toNat =
      (codes.getD (2 * j.val) 0).toNat * 16 + (codes.getD (2 * j.val + 1) 0).toNat

/-- R64: unpacking is the exact inverse of packing, and every 8-byte value is the packing of exactly one choice of
fields. -/
def Obligations.UnpackInvertsPack : Prop :=
  (∀ (sel e : Nibble) (codes : List Nibble), codes.length = 14 →
    unpack (pack sel e.toNat codes) = { sel := sel, e := e, codes := codes }) ∧
  (∀ b : Vector Byte 8, (unpack b).codes.length = 14 ∧
    pack (unpack b).sel (unpack b).e.toNat (unpack b).codes = b)

/-! ## Rules over all commands -/

/-- R20, its column "written by": which commands write each element. A response is sent by the read commands alone
(R67). -/
def Obligations.ElementsAndTheirWriters : Prop :=
  ∀ (i : Instr) (s t : State), i.wellFormed = true → exec i s = .next t →
    (t.hist1 ≠ s.hist1 → i = .enc ∨ ∃ v, i = .ldh1 v) ∧
    (t.hist2 ≠ s.hist2 → i = .enc ∨ ∃ v, i = .ldh2 v) ∧
    (t.coef ≠ s.coef → ∃ c v, i = .lda1 c v ∨ i = .lda2 c v) ∧
    (t.nm1 ≠ s.nm1 → ∃ n, i = .ldn n) ∧
    (t.sample ≠ s.sample → ∃ k v, i = .lds k v) ∧
    (t.out ≠ s.out → i = .enc) ∧ (t.recon ≠ s.recon → i = .enc) ∧
    (t.diag ≠ s.diag → i = .enc ∨ i = .clr) ∧
    (t.sovf ≠ s.sovf → (i = .enc ∧ t.sovf = true) ∨ (i = .clr ∧ t.sovf = false)) ∧
    t.cerr = s.cerr ∧ t.pending = s.pending ∧
    (isRead i = false → t.responses = s.responses)

/-- R26: both flags are sticky. A step clears `SOVF` only by `CLR` or `RESET`, and `CERR` only by `RESET` (R184).
The channel and the idle step are the model's (log 1, 3). -/
def Obligations.FlagsAreSticky : Prop :=
  ∀ s t : State, step s = .next t →
    (s.sovf = true → t.sovf = false →
      ∃ rest, s.pending = .reset :: rest ∨ s.pending = .command 0xE0000000 :: rest) ∧
    (s.cerr = true → t.cerr = false → ∃ rest, s.pending = .reset :: rest)

/-- R26: no command's result depends on either flag but that of `RDS`. For an instruction whose index names
nothing this rests on log 7. -/
def Obligations.FlagsAreReadByRdsAlone : Prop :=
  ∀ (i : Instr) (s t : State) (b c : Bool), i ≠ .rds → exec i s = .next t →
    ∃ t', exec i { s with sovf := b, cerr := c } = .next t' ∧ { t' with sovf := t.sovf, cerr := t.cerr } = t

/-- R28, R32: `OUT`, `RECON` and `DIAG` are read by `RDO`, `RDR` and `RDD` alone. For an instruction whose
index names nothing this rests on log 7. -/
def Obligations.OutputsAreReadByTheirReadsAlone : Prop :=
  (∀ (i : Instr) (s t : State) (b : Vector Byte 8), (∀ j, i ≠ .rdo j) → exec i s = .next t →
    ∃ t', exec i { s with out := b } = .next t' ∧ { t' with out := t.out } = t) ∧
  (∀ (i : Instr) (s t : State) (y : Vector Half 14), (∀ k, i ≠ .rdr k) → exec i s = .next t →
    ∃ t', exec i { s with recon := y } = .next t' ∧ { t' with recon := t.recon } = t) ∧
  (∀ (i : Instr) (s t : State) (d : RspWord), i ≠ .rdd → exec i s = .next t →
    ∃ t', exec i { s with diag := d } = .next t' ∧ { t' with diag := t.diag } = t)

/-- R23 (the spec's own inference), for every command: outputs, diagnostics, flags and channels never reach the inputs. Two
states that agree on the history, the table, `N` and the block agree on them after any command. For an instruction whose
index names nothing this rests on log 7. -/
def Obligations.OutputsNeverReachInputs : Prop :=
  ∀ (i : Instr) (s s' t : State), SameInputs s s' → exec i s = .next t →
    ∃ t', exec i s' = .next t' ∧ SameInputs t t'

/-- R46 (the spec's own inference): a read command changes no element and reading twice gives the same value twice; every
write command but `ENC` is idempotent; `ENC` is not. For an instruction whose
index names nothing this rests on log 7. -/
def Obligations.ReadsAndWritesRepeat : Prop :=
  (∀ (i : Instr) (s t : State), i.wellFormed = true → isRead i = true → exec i s = .next t →
    ∃ v, t = { s with responses := s.responses ++ [v] } ∧
      exec i t = .next { t with responses := t.responses ++ [v] }) ∧
  (∀ (i : Instr) (s t : State), isRead i = false → i ≠ .enc → exec i s = .next t → exec i t = .next t) ∧
  (∃ s t, exec .enc s = .next t ∧ exec .enc t ≠ .next t)

/-- R67: a legal read command sends exactly one response word, every other command, legal or not, sends none.
The two channels are the model's lists (log 1, 2). -/
def Obligations.OneResponsePerLegalRead : Prop :=
  ∀ (w : CmdWord) (rest : List HostEvent) (s : State), s.pending = .command w :: rest →
    ∃ t, step s = .next t ∧
      ((∃ i, decode w = .ok i ∧ isRead i = true) → ∃ v, t.responses = s.responses ++ [v]) ∧
      ((¬∃ i, decode w = .ok i ∧ isRead i = true) → t.responses = s.responses)

/-! ## Invariants -/

/-- R48: every step keeps it: one response has left per legal read command taken, none for anything else.
The two channels and the idle step are the model's (log 1, 2, 3). -/
def Obligations.ResponseCountIsKept : Prop :=
  ∀ (sent : List HostEvent) (s t : State), ResponsesMatchReads sent s → step s = .next t → ResponsesMatchReads sent t

/-- R184: every step keeps it: `CERR` is set exactly when an illegal word has been taken since the last `RESET`. The
channel and the idle step are the model's (log 1, 3). -/
def Obligations.CerrRecordIsKept : Prop :=
  ∀ (sent : List HostEvent) (s t : State), CerrMarksIllegalWords sent s → step s = .next t →
    CerrMarksIllegalWords sent t

/-- R22, R143: every step keeps it: while the host leaves the history alone it is the last two reconstructed
samples. The channel and the idle step are the model's (log 1, 3). -/
def Obligations.HistoryContinuityIsKept : Prop :=
  ∀ (sent : List HostEvent) (s t : State), HistoryIsReconstruction sent s → step s = .next t →
    HistoryIsReconstruction sent t

/-- The three invariants hold at `State.reset`, and at the reset state with any sequence of events still to come.
That both channels are empty at reset is the model's (log 1, 2). -/
def Obligations.ResetMeetsInvariants : Prop :=
  ∀ sent : List HostEvent, ResponsesMatchReads sent { State.reset with pending := sent } ∧
    CerrMarksIllegalWords sent { State.reset with pending := sent } ∧
    HistoryIsReconstruction sent { State.reset with pending := sent } ∧
    ResponsesMatchReads [] State.reset ∧ CerrMarksIllegalWords [] State.reset ∧ HistoryIsReconstruction [] State.reset

/-! ## Assembler syntax and pseudo-instructions -/

/-- R72: the assembler never produces an illegal word. Which lines it takes is, in the details, the model's (log 8). -/
def Obligations.AssembledWordsAreLegal : Prop :=
  ∀ (line : List Char) (ws : List CmdWord), assembleLine line = some ws → ∀ w ∈ ws, isIllegal w = false

/-- R72: the rule's own five examples, an immediate as a hexadecimal pattern, and refusals of operands out of range. That a
space may stand before the `;` of a comment and that a lower-case mnemonic is refused rest on the model's line syntax
(log 8). -/
def Obligations.AssemblerExamples : Prop :=
  assembleLine "LDA1 0, 4096".toList = some [0x20001000] ∧ assembleLine "LDA2 0, -2048".toList = some [0x3000F800] ∧
  assembleLine "LDS 13, 1300".toList = some [0x6D000514] ∧
  assembleLine "LDS 13, 1300 ; a comment".toList = some [0x6D000514] ∧ assembleLine "ENC".toList = some [0x70000000] ∧
  assembleLine "RDO 7".toList = some [0x87000000] ∧ assembleLine "LDA2 0, 0xF800".toList = some [0x3000F800] ∧
  assembleLine "RDO 8".toList = none ∧ assembleLine "LDS 14, 0".toList = none ∧
  assembleLine "LDH1 32768".toList = none ∧ assembleLine "ldh1 0".toList = none

/-- R73: what the expansions do: `LDC` loads one pair, `SEED` the history, `BLK` the block and then encodes it, `RDB` reads
the eight bytes in order. -/
def Obligations.PseudoInstructionsExpand : Prop :=
  (∀ (i : Nibble) (a1 a2 : Half) (s : State), ∃ t, runCommands (ldc i a1 a2) s = .next t ∧
    (∀ j : Fin 16, t.coef[j] = if j.val = i.toNat then ⟨a1, a2⟩ else s.coef[j]) ∧ { t with coef := s.coef } = s) ∧
  (∀ (h1 h2 : Half) (s : State), runCommands (seed h1 h2) s = .next { s with hist1 := h1, hist2 := h2 }) ∧
  (∀ (block : Vector Half 14) (s : State), runCommands (blk block) s = exec .enc { s with sample := block }) ∧
  (∀ s : State, runCommands rdb s = .next { s with responses := s.responses ++ s.out.toList.map (·.setWidth 64) })

/-- R202, R204: the host's sequence for one call of `encode`, with a table of 1 to 16 pairs: no word of it is illegal; it
completes from every state; it loads `N` and the table and leaves the other slots alone; it brings eight responses for each
block of 14 samples, the last one padded, and four more. -/
def Obligations.EncodeCallResponds : Prop :=
  ∀ (table : List CoefPair) (h1 h2 : Half) (samples : List Half) (s : State),
    1 ≤ table.length → table.length ≤ 16 →
    (∀ i ∈ encodeCall table h1 h2 samples, i.wellFormed = true) ∧
    ∃ t r, runCommands (encodeCall table h1 h2 samples) s = .next t ∧ t.responses = s.responses ++ r ∧
      r.length = 8 * ((samples.length + 13) / 14) + 4 ∧ t.cerr = s.cerr ∧ t.candidateCount = table.length ∧
      (∀ k : Fin 16, ∀ h : k.val < table.length, t.coef[k] = table[k.val]) ∧
      (∀ k : Fin 16, table.length ≤ k.val → t.coef[k] = s.coef[k])
end

