-- ==== Sys2Proof/Laws/Config.lean ====
section
/-! SUPPORT. The parameters as numerals, for simp. -/

namespace Sys2Proof.Config

@[simp] theorem block_eq : block = 14 := rfl
@[simp] theorem blockBytes_eq : blockBytes = 8 := rfl
@[simp] theorem slots_eq : slots = 16 := rfl
@[simp] theorem frac_eq : frac = 11 := rfl
@[simp] theorem bias_eq : bias = 1024 := rfl
@[simp] theorem expMax_eq : expMax = 15 := rfl
@[simp] theorem expOff_eq : expOff = 3 := rfl
@[simp] theorem satMin_eq : satMin = -32768 := rfl
@[simp] theorem satMax_eq : satMax = 32767 := rfl

end Sys2Proof.Config
end

