-- ==== Sys2Proof/Laws/Decode.lean ====
section
/-! SUPPORT. The fields of a command word: what packing them and reading them back does, and what an accepted word looks
like. -/

namespace Sys2Proof

/-- Bit by bit, a packed word is its fields side by side (R65). -/
theorem getLsbD_packFields (op idx : Nibble) (imm : Half) (n : Nat) :
    (packFields op idx imm).getLsbD n =
      if n < 16 then imm.getLsbD n else if n - 16 < 8 then false
      else if n - 16 - 8 < 4 then idx.getLsbD (n - 16 - 8) else op.getLsbD (n - 16 - 8 - 4) := by
  unfold packFields
  show (op ++ idx ++ 0#8 ++ imm : BitVec (4 + 4 + 8 + 16)).getLsbD n = _
  simp only [BitVec.getLsbD_append]
  split_ifs <;> simp

@[simp] theorem fieldOp_packFields (op idx : Nibble) (imm : Half) : fieldOp (packFields op idx imm) = op := by
  apply BitVec.eq_of_getLsbD_eq
  intro n hn
  simp only [fieldOp, BitVec.getLsbD_extractLsb', getLsbD_packFields, hn, decide_true, Bool.true_and]
  split_ifs <;> first | omega | (congr 1; omega)

@[simp] theorem fieldIdx_packFields (op idx : Nibble) (imm : Half) : fieldIdx (packFields op idx imm) = idx := by
  apply BitVec.eq_of_getLsbD_eq
  intro n hn
  simp only [fieldIdx, BitVec.getLsbD_extractLsb', getLsbD_packFields, hn, decide_true, Bool.true_and]
  split_ifs <;> first | omega | (congr 1; omega)

@[simp] theorem fieldZero_packFields (op idx : Nibble) (imm : Half) : fieldZero (packFields op idx imm) = 0 := by
  apply BitVec.eq_of_getLsbD_eq
  intro n hn
  simp only [fieldZero, BitVec.getLsbD_extractLsb', getLsbD_packFields, hn, decide_true, Bool.true_and]
  split_ifs <;> first | omega | simp

@[simp] theorem fieldImm_packFields (op idx : Nibble) (imm : Half) : fieldImm (packFields op idx imm) = imm := by
  apply BitVec.eq_of_getLsbD_eq
  intro n hn
  simp only [fieldImm, BitVec.getLsbD_extractLsb', getLsbD_packFields, hn, decide_true, Bool.true_and]
  split_ifs <;> first | omega | simp

/-- Two words with the same four fields are the same word. -/
theorem eq_of_fields {a b : CmdWord} (hop : fieldOp a = fieldOp b) (hidx : fieldIdx a = fieldIdx b)
    (hzero : fieldZero a = fieldZero b) (himm : fieldImm a = fieldImm b) : a = b := by
  have bit : ∀ k len st : Nat, a.extractLsb' st len = b.extractLsb' st len → k < len →
      a.getLsbD (st + k) = b.getLsbD (st + k) := by
    intro k len st h hk
    simpa [BitVec.getLsbD_extractLsb', hk] using congrArg (fun x => x.getLsbD k) h
  apply BitVec.eq_of_getLsbD_eq
  intro n hn
  by_cases h16 : n < 16
  · simpa using bit n _ _ himm h16
  · by_cases h24 : n < 24
    · simpa [show 16 + (n - 16) = n by omega] using bit (n - 16) _ _ hzero (by omega)
    · by_cases h28 : n < 28
      · simpa [show 24 + (n - 24) = n by omega] using bit (n - 24) _ _ hidx (by omega)
      · simpa [show 28 + (n - 28) = n by omega] using bit (n - 28) _ _ hop (by omega)

/-- A word whose `zero` field is 0 is the packing of its other fields. -/
theorem packFields_fields (w : CmdWord) (h : fieldZero w = 0) :
    packFields (fieldOp w) (fieldIdx w) (fieldImm w) = w :=
  eq_of_fields (by simp) (by simp) (by simp [h]) (by simp)

/-- A mask acts field by field. -/
theorem and_eq_iff_fields (w m p : CmdWord) : w &&& m = p ↔
    fieldOp w &&& fieldOp m = fieldOp p ∧ fieldIdx w &&& fieldIdx m = fieldIdx p ∧
      fieldZero w &&& fieldZero m = fieldZero p ∧ fieldImm w &&& fieldImm m = fieldImm p := by
  have hand : ∀ len st : Nat, (w &&& m).extractLsb' st len = w.extractLsb' st len &&& m.extractLsb' st len := by
    intro len st
    apply BitVec.eq_of_getLsbD_eq
    intro n hn
    simp [hn]
  constructor
  · rintro rfl
    simp [fieldOp, fieldIdx, fieldZero, fieldImm, hand]
  · rintro ⟨h1, h2, h3, h4⟩
    refine eq_of_fields ?_ ?_ ?_ ?_
    · rw [← h1, fieldOp, hand, fieldOp, fieldOp]
    · rw [← h2, fieldIdx, hand, fieldIdx, fieldIdx]
    · rw [← h3, fieldZero, hand, fieldZero, fieldZero]
    · rw [← h4, fieldImm, hand, fieldImm, fieldImm]

/-- The sixteen values of `op`. -/
theorem nibble_cases (x : Nibble) :
    x = 0 ∨ x = 1 ∨ x = 2 ∨ x = 3 ∨ x = 4 ∨ x = 5 ∨ x = 6 ∨ x = 7 ∨ x = 8 ∨ x = 9 ∨ x = 10 ∨ x = 11 ∨ x = 12 ∨
      x = 13 ∨ x = 14 ∨ x = 15 := by
  revert x; decide

/-- On packed fields the decoder is the row's own check. -/
theorem decode_packFields (op idx : Nibble) (imm : Half) (h : op ≠ 0xF#4) :
    decode (packFields op idx imm) = decodeFields op idx imm := by
  simp [decode, h]

/-- What acceptance says of the fields. -/
theorem decode_ok_fields {w : CmdWord} {i : Instr} (h : decode w = .ok i) :
    fieldZero w = 0 ∧ decodeFields (fieldOp w) (fieldIdx w) (fieldImm w) = .ok i := by
  unfold decode at h
  split_ifs at h with _ hz
  exact ⟨by simpa using hz, h⟩

theorem withoutIdx_eq_ok {idx : Nibble} {r : Except DecodeError Instr} {i : Instr} :
    withoutIdx idx r = .ok i ↔ idx = 0 ∧ r = .ok i := by
  unfold withoutIdx; split_ifs <;> simp_all

theorem withoutImm_eq_ok {imm : Half} {r : Except DecodeError Instr} {i : Instr} :
    withoutImm imm r = .ok i ↔ imm = 0 ∧ r = .ok i := by
  unfold withoutImm; split_ifs <;> simp_all

theorem withIndex_eq_ok {n : Nat} {idx : Nibble} {e : DecodeError} {r : Except DecodeError Instr} {i : Instr} :
    withIndex n idx e r = .ok i ↔ idx.toNat < n ∧ r = .ok i := by
  unfold withIndex; split_ifs <;> simp_all

theorem isIllegal_eq_true {w : CmdWord} : isIllegal w = true ↔ ∃ e, decode w = .error e := by
  unfold isIllegal; cases decode w <;> simp

theorem isIllegal_eq_false {w : CmdWord} : isIllegal w = false ↔ ∃ i, decode w = .ok i := by
  unfold isIllegal; cases decode w <;> simp

end Sys2Proof
end

