-- ==== Sys2Proof/Laws/State.lean ====
section
/-! SUPPORT. One lemma per field per update of the state, so that no later proof unfolds a record update. -/

namespace Sys2Proof.Machine

variable (s : State)

/-! `writeHist1` -/

@[simp] theorem State.writeHist1_hist1 (v : Half) : (s.writeHist1 v).hist1 = v := rfl
@[simp] theorem State.writeHist1_hist2 (v : Half) : (s.writeHist1 v).hist2 = s.hist2 := rfl
@[simp] theorem State.writeHist1_coef (v : Half) : (s.writeHist1 v).coef = s.coef := rfl
@[simp] theorem State.writeHist1_nm1 (v : Half) : (s.writeHist1 v).nm1 = s.nm1 := rfl
@[simp] theorem State.writeHist1_sample (v : Half) : (s.writeHist1 v).sample = s.sample := rfl
@[simp] theorem State.writeHist1_out (v : Half) : (s.writeHist1 v).out = s.out := rfl
@[simp] theorem State.writeHist1_recon (v : Half) : (s.writeHist1 v).recon = s.recon := rfl
@[simp] theorem State.writeHist1_diag (v : Half) : (s.writeHist1 v).diag = s.diag := rfl
@[simp] theorem State.writeHist1_sovf (v : Half) : (s.writeHist1 v).sovf = s.sovf := rfl
@[simp] theorem State.writeHist1_cerr (v : Half) : (s.writeHist1 v).cerr = s.cerr := rfl
@[simp] theorem State.writeHist1_pending (v : Half) : (s.writeHist1 v).pending = s.pending := rfl
@[simp] theorem State.writeHist1_responses (v : Half) : (s.writeHist1 v).responses = s.responses := rfl

/-! `writeHist2` -/

@[simp] theorem State.writeHist2_hist1 (v : Half) : (s.writeHist2 v).hist1 = s.hist1 := rfl
@[simp] theorem State.writeHist2_hist2 (v : Half) : (s.writeHist2 v).hist2 = v := rfl
@[simp] theorem State.writeHist2_coef (v : Half) : (s.writeHist2 v).coef = s.coef := rfl
@[simp] theorem State.writeHist2_nm1 (v : Half) : (s.writeHist2 v).nm1 = s.nm1 := rfl
@[simp] theorem State.writeHist2_sample (v : Half) : (s.writeHist2 v).sample = s.sample := rfl
@[simp] theorem State.writeHist2_out (v : Half) : (s.writeHist2 v).out = s.out := rfl
@[simp] theorem State.writeHist2_recon (v : Half) : (s.writeHist2 v).recon = s.recon := rfl
@[simp] theorem State.writeHist2_diag (v : Half) : (s.writeHist2 v).diag = s.diag := rfl
@[simp] theorem State.writeHist2_sovf (v : Half) : (s.writeHist2 v).sovf = s.sovf := rfl
@[simp] theorem State.writeHist2_cerr (v : Half) : (s.writeHist2 v).cerr = s.cerr := rfl
@[simp] theorem State.writeHist2_pending (v : Half) : (s.writeHist2 v).pending = s.pending := rfl
@[simp] theorem State.writeHist2_responses (v : Half) : (s.writeHist2 v).responses = s.responses := rfl

/-! `writeCoefA1` -/

@[simp] theorem State.writeCoefA1_hist1 (i : Nibble) (v : Half) : (s.writeCoefA1 i v).hist1 = s.hist1 := rfl
@[simp] theorem State.writeCoefA1_hist2 (i : Nibble) (v : Half) : (s.writeCoefA1 i v).hist2 = s.hist2 := rfl
@[simp] theorem State.writeCoefA1_coef (i : Nibble) (v : Half) : (s.writeCoefA1 i v).coef = s.coef.set i.toNat { s.coefAt i with a1 := v } i.isLt := rfl
@[simp] theorem State.writeCoefA1_nm1 (i : Nibble) (v : Half) : (s.writeCoefA1 i v).nm1 = s.nm1 := rfl
@[simp] theorem State.writeCoefA1_sample (i : Nibble) (v : Half) : (s.writeCoefA1 i v).sample = s.sample := rfl
@[simp] theorem State.writeCoefA1_out (i : Nibble) (v : Half) : (s.writeCoefA1 i v).out = s.out := rfl
@[simp] theorem State.writeCoefA1_recon (i : Nibble) (v : Half) : (s.writeCoefA1 i v).recon = s.recon := rfl
@[simp] theorem State.writeCoefA1_diag (i : Nibble) (v : Half) : (s.writeCoefA1 i v).diag = s.diag := rfl
@[simp] theorem State.writeCoefA1_sovf (i : Nibble) (v : Half) : (s.writeCoefA1 i v).sovf = s.sovf := rfl
@[simp] theorem State.writeCoefA1_cerr (i : Nibble) (v : Half) : (s.writeCoefA1 i v).cerr = s.cerr := rfl
@[simp] theorem State.writeCoefA1_pending (i : Nibble) (v : Half) : (s.writeCoefA1 i v).pending = s.pending := rfl
@[simp] theorem State.writeCoefA1_responses (i : Nibble) (v : Half) : (s.writeCoefA1 i v).responses = s.responses := rfl

/-! `writeCoefA2` -/

@[simp] theorem State.writeCoefA2_hist1 (i : Nibble) (v : Half) : (s.writeCoefA2 i v).hist1 = s.hist1 := rfl
@[simp] theorem State.writeCoefA2_hist2 (i : Nibble) (v : Half) : (s.writeCoefA2 i v).hist2 = s.hist2 := rfl
@[simp] theorem State.writeCoefA2_coef (i : Nibble) (v : Half) : (s.writeCoefA2 i v).coef = s.coef.set i.toNat { s.coefAt i with a2 := v } i.isLt := rfl
@[simp] theorem State.writeCoefA2_nm1 (i : Nibble) (v : Half) : (s.writeCoefA2 i v).nm1 = s.nm1 := rfl
@[simp] theorem State.writeCoefA2_sample (i : Nibble) (v : Half) : (s.writeCoefA2 i v).sample = s.sample := rfl
@[simp] theorem State.writeCoefA2_out (i : Nibble) (v : Half) : (s.writeCoefA2 i v).out = s.out := rfl
@[simp] theorem State.writeCoefA2_recon (i : Nibble) (v : Half) : (s.writeCoefA2 i v).recon = s.recon := rfl
@[simp] theorem State.writeCoefA2_diag (i : Nibble) (v : Half) : (s.writeCoefA2 i v).diag = s.diag := rfl
@[simp] theorem State.writeCoefA2_sovf (i : Nibble) (v : Half) : (s.writeCoefA2 i v).sovf = s.sovf := rfl
@[simp] theorem State.writeCoefA2_cerr (i : Nibble) (v : Half) : (s.writeCoefA2 i v).cerr = s.cerr := rfl
@[simp] theorem State.writeCoefA2_pending (i : Nibble) (v : Half) : (s.writeCoefA2 i v).pending = s.pending := rfl
@[simp] theorem State.writeCoefA2_responses (i : Nibble) (v : Half) : (s.writeCoefA2 i v).responses = s.responses := rfl

/-! `writeNm1` -/

@[simp] theorem State.writeNm1_hist1 (n : Nibble) : (s.writeNm1 n).hist1 = s.hist1 := rfl
@[simp] theorem State.writeNm1_hist2 (n : Nibble) : (s.writeNm1 n).hist2 = s.hist2 := rfl
@[simp] theorem State.writeNm1_coef (n : Nibble) : (s.writeNm1 n).coef = s.coef := rfl
@[simp] theorem State.writeNm1_nm1 (n : Nibble) : (s.writeNm1 n).nm1 = n := rfl
@[simp] theorem State.writeNm1_sample (n : Nibble) : (s.writeNm1 n).sample = s.sample := rfl
@[simp] theorem State.writeNm1_out (n : Nibble) : (s.writeNm1 n).out = s.out := rfl
@[simp] theorem State.writeNm1_recon (n : Nibble) : (s.writeNm1 n).recon = s.recon := rfl
@[simp] theorem State.writeNm1_diag (n : Nibble) : (s.writeNm1 n).diag = s.diag := rfl
@[simp] theorem State.writeNm1_sovf (n : Nibble) : (s.writeNm1 n).sovf = s.sovf := rfl
@[simp] theorem State.writeNm1_cerr (n : Nibble) : (s.writeNm1 n).cerr = s.cerr := rfl
@[simp] theorem State.writeNm1_pending (n : Nibble) : (s.writeNm1 n).pending = s.pending := rfl
@[simp] theorem State.writeNm1_responses (n : Nibble) : (s.writeNm1 n).responses = s.responses := rfl

/-! `writeSample` -/

@[simp] theorem State.writeSample_hist1 (k : Fin 14) (v : Half) : (s.writeSample k v).hist1 = s.hist1 := rfl
@[simp] theorem State.writeSample_hist2 (k : Fin 14) (v : Half) : (s.writeSample k v).hist2 = s.hist2 := rfl
@[simp] theorem State.writeSample_coef (k : Fin 14) (v : Half) : (s.writeSample k v).coef = s.coef := rfl
@[simp] theorem State.writeSample_nm1 (k : Fin 14) (v : Half) : (s.writeSample k v).nm1 = s.nm1 := rfl
@[simp] theorem State.writeSample_sample (k : Fin 14) (v : Half) : (s.writeSample k v).sample = s.sample.set k.val v k.isLt := rfl
@[simp] theorem State.writeSample_out (k : Fin 14) (v : Half) : (s.writeSample k v).out = s.out := rfl
@[simp] theorem State.writeSample_recon (k : Fin 14) (v : Half) : (s.writeSample k v).recon = s.recon := rfl
@[simp] theorem State.writeSample_diag (k : Fin 14) (v : Half) : (s.writeSample k v).diag = s.diag := rfl
@[simp] theorem State.writeSample_sovf (k : Fin 14) (v : Half) : (s.writeSample k v).sovf = s.sovf := rfl
@[simp] theorem State.writeSample_cerr (k : Fin 14) (v : Half) : (s.writeSample k v).cerr = s.cerr := rfl
@[simp] theorem State.writeSample_pending (k : Fin 14) (v : Half) : (s.writeSample k v).pending = s.pending := rfl
@[simp] theorem State.writeSample_responses (k : Fin 14) (v : Half) : (s.writeSample k v).responses = s.responses := rfl

/-! `writeOut` -/

@[simp] theorem State.writeOut_hist1 (b : Vector Byte 8) : (s.writeOut b).hist1 = s.hist1 := rfl
@[simp] theorem State.writeOut_hist2 (b : Vector Byte 8) : (s.writeOut b).hist2 = s.hist2 := rfl
@[simp] theorem State.writeOut_coef (b : Vector Byte 8) : (s.writeOut b).coef = s.coef := rfl
@[simp] theorem State.writeOut_nm1 (b : Vector Byte 8) : (s.writeOut b).nm1 = s.nm1 := rfl
@[simp] theorem State.writeOut_sample (b : Vector Byte 8) : (s.writeOut b).sample = s.sample := rfl
@[simp] theorem State.writeOut_out (b : Vector Byte 8) : (s.writeOut b).out = b := rfl
@[simp] theorem State.writeOut_recon (b : Vector Byte 8) : (s.writeOut b).recon = s.recon := rfl
@[simp] theorem State.writeOut_diag (b : Vector Byte 8) : (s.writeOut b).diag = s.diag := rfl
@[simp] theorem State.writeOut_sovf (b : Vector Byte 8) : (s.writeOut b).sovf = s.sovf := rfl
@[simp] theorem State.writeOut_cerr (b : Vector Byte 8) : (s.writeOut b).cerr = s.cerr := rfl
@[simp] theorem State.writeOut_pending (b : Vector Byte 8) : (s.writeOut b).pending = s.pending := rfl
@[simp] theorem State.writeOut_responses (b : Vector Byte 8) : (s.writeOut b).responses = s.responses := rfl

/-! `writeRecon` -/

@[simp] theorem State.writeRecon_hist1 (y : Vector Half 14) : (s.writeRecon y).hist1 = s.hist1 := rfl
@[simp] theorem State.writeRecon_hist2 (y : Vector Half 14) : (s.writeRecon y).hist2 = s.hist2 := rfl
@[simp] theorem State.writeRecon_coef (y : Vector Half 14) : (s.writeRecon y).coef = s.coef := rfl
@[simp] theorem State.writeRecon_nm1 (y : Vector Half 14) : (s.writeRecon y).nm1 = s.nm1 := rfl
@[simp] theorem State.writeRecon_sample (y : Vector Half 14) : (s.writeRecon y).sample = s.sample := rfl
@[simp] theorem State.writeRecon_out (y : Vector Half 14) : (s.writeRecon y).out = s.out := rfl
@[simp] theorem State.writeRecon_recon (y : Vector Half 14) : (s.writeRecon y).recon = y := rfl
@[simp] theorem State.writeRecon_diag (y : Vector Half 14) : (s.writeRecon y).diag = s.diag := rfl
@[simp] theorem State.writeRecon_sovf (y : Vector Half 14) : (s.writeRecon y).sovf = s.sovf := rfl
@[simp] theorem State.writeRecon_cerr (y : Vector Half 14) : (s.writeRecon y).cerr = s.cerr := rfl
@[simp] theorem State.writeRecon_pending (y : Vector Half 14) : (s.writeRecon y).pending = s.pending := rfl
@[simp] theorem State.writeRecon_responses (y : Vector Half 14) : (s.writeRecon y).responses = s.responses := rfl

/-! `writeDiag` -/

@[simp] theorem State.writeDiag_hist1 (v : RspWord) : (s.writeDiag v).hist1 = s.hist1 := rfl
@[simp] theorem State.writeDiag_hist2 (v : RspWord) : (s.writeDiag v).hist2 = s.hist2 := rfl
@[simp] theorem State.writeDiag_coef (v : RspWord) : (s.writeDiag v).coef = s.coef := rfl
@[simp] theorem State.writeDiag_nm1 (v : RspWord) : (s.writeDiag v).nm1 = s.nm1 := rfl
@[simp] theorem State.writeDiag_sample (v : RspWord) : (s.writeDiag v).sample = s.sample := rfl
@[simp] theorem State.writeDiag_out (v : RspWord) : (s.writeDiag v).out = s.out := rfl
@[simp] theorem State.writeDiag_recon (v : RspWord) : (s.writeDiag v).recon = s.recon := rfl
@[simp] theorem State.writeDiag_diag (v : RspWord) : (s.writeDiag v).diag = v := rfl
@[simp] theorem State.writeDiag_sovf (v : RspWord) : (s.writeDiag v).sovf = s.sovf := rfl
@[simp] theorem State.writeDiag_cerr (v : RspWord) : (s.writeDiag v).cerr = s.cerr := rfl
@[simp] theorem State.writeDiag_pending (v : RspWord) : (s.writeDiag v).pending = s.pending := rfl
@[simp] theorem State.writeDiag_responses (v : RspWord) : (s.writeDiag v).responses = s.responses := rfl

/-! `respond` -/

@[simp] theorem State.respond_hist1 (v : RspWord) : (s.respond v).hist1 = s.hist1 := rfl
@[simp] theorem State.respond_hist2 (v : RspWord) : (s.respond v).hist2 = s.hist2 := rfl
@[simp] theorem State.respond_coef (v : RspWord) : (s.respond v).coef = s.coef := rfl
@[simp] theorem State.respond_nm1 (v : RspWord) : (s.respond v).nm1 = s.nm1 := rfl
@[simp] theorem State.respond_sample (v : RspWord) : (s.respond v).sample = s.sample := rfl
@[simp] theorem State.respond_out (v : RspWord) : (s.respond v).out = s.out := rfl
@[simp] theorem State.respond_recon (v : RspWord) : (s.respond v).recon = s.recon := rfl
@[simp] theorem State.respond_diag (v : RspWord) : (s.respond v).diag = s.diag := rfl
@[simp] theorem State.respond_sovf (v : RspWord) : (s.respond v).sovf = s.sovf := rfl
@[simp] theorem State.respond_cerr (v : RspWord) : (s.respond v).cerr = s.cerr := rfl
@[simp] theorem State.respond_pending (v : RspWord) : (s.respond v).pending = s.pending := rfl
@[simp] theorem State.respond_responses (v : RspWord) : (s.respond v).responses = s.responses ++ [v] := rfl

/-! `illegal` -/

@[simp] theorem State.illegal_hist1 : (s.illegal).hist1 = s.hist1 := rfl
@[simp] theorem State.illegal_hist2 : (s.illegal).hist2 = s.hist2 := rfl
@[simp] theorem State.illegal_coef : (s.illegal).coef = s.coef := rfl
@[simp] theorem State.illegal_nm1 : (s.illegal).nm1 = s.nm1 := rfl
@[simp] theorem State.illegal_sample : (s.illegal).sample = s.sample := rfl
@[simp] theorem State.illegal_out : (s.illegal).out = s.out := rfl
@[simp] theorem State.illegal_recon : (s.illegal).recon = s.recon := rfl
@[simp] theorem State.illegal_diag : (s.illegal).diag = s.diag := rfl
@[simp] theorem State.illegal_sovf : (s.illegal).sovf = s.sovf := rfl
@[simp] theorem State.illegal_cerr : (s.illegal).cerr = true := rfl
@[simp] theorem State.illegal_pending : (s.illegal).pending = s.pending := rfl
@[simp] theorem State.illegal_responses : (s.illegal).responses = s.responses := rfl

/-! `clearSovf` -/

@[simp] theorem State.clearSovf_hist1 : (s.clearSovf).hist1 = s.hist1 := rfl
@[simp] theorem State.clearSovf_hist2 : (s.clearSovf).hist2 = s.hist2 := rfl
@[simp] theorem State.clearSovf_coef : (s.clearSovf).coef = s.coef := rfl
@[simp] theorem State.clearSovf_nm1 : (s.clearSovf).nm1 = s.nm1 := rfl
@[simp] theorem State.clearSovf_sample : (s.clearSovf).sample = s.sample := rfl
@[simp] theorem State.clearSovf_out : (s.clearSovf).out = s.out := rfl
@[simp] theorem State.clearSovf_recon : (s.clearSovf).recon = s.recon := rfl
@[simp] theorem State.clearSovf_diag : (s.clearSovf).diag = s.diag := rfl
@[simp] theorem State.clearSovf_sovf : (s.clearSovf).sovf = false := rfl
@[simp] theorem State.clearSovf_cerr : (s.clearSovf).cerr = s.cerr := rfl
@[simp] theorem State.clearSovf_pending : (s.clearSovf).pending = s.pending := rfl
@[simp] theorem State.clearSovf_responses : (s.clearSovf).responses = s.responses := rfl

/-! `noteScale` -/

@[simp] theorem State.noteScale_hist1 (b : Bool) : (s.noteScale b).hist1 = s.hist1 := by cases b <;> simp [State.noteScale, State.recordCondition]
@[simp] theorem State.noteScale_hist2 (b : Bool) : (s.noteScale b).hist2 = s.hist2 := by cases b <;> simp [State.noteScale, State.recordCondition]
@[simp] theorem State.noteScale_coef (b : Bool) : (s.noteScale b).coef = s.coef := by cases b <;> simp [State.noteScale, State.recordCondition]
@[simp] theorem State.noteScale_nm1 (b : Bool) : (s.noteScale b).nm1 = s.nm1 := by cases b <;> simp [State.noteScale, State.recordCondition]
@[simp] theorem State.noteScale_sample (b : Bool) : (s.noteScale b).sample = s.sample := by cases b <;> simp [State.noteScale, State.recordCondition]
@[simp] theorem State.noteScale_out (b : Bool) : (s.noteScale b).out = s.out := by cases b <;> simp [State.noteScale, State.recordCondition]
@[simp] theorem State.noteScale_recon (b : Bool) : (s.noteScale b).recon = s.recon := by cases b <;> simp [State.noteScale, State.recordCondition]
@[simp] theorem State.noteScale_diag (b : Bool) : (s.noteScale b).diag = s.diag := by cases b <;> simp [State.noteScale, State.recordCondition]
@[simp] theorem State.noteScale_sovf (b : Bool) : (s.noteScale b).sovf = (s.sovf || b) := by cases b <;> simp [State.noteScale, State.recordCondition]
@[simp] theorem State.noteScale_cerr (b : Bool) : (s.noteScale b).cerr = s.cerr := by cases b <;> simp [State.noteScale, State.recordCondition]
@[simp] theorem State.noteScale_pending (b : Bool) : (s.noteScale b).pending = s.pending := by cases b <;> simp [State.noteScale, State.recordCondition]
@[simp] theorem State.noteScale_responses (b : Bool) : (s.noteScale b).responses = s.responses := by cases b <;> simp [State.noteScale, State.recordCondition]

/-! `putNext` -/

@[simp] theorem State.putNext_hist1 (w : CmdWord) : (s.putNext w).hist1 = s.hist1 := rfl
@[simp] theorem State.putNext_hist2 (w : CmdWord) : (s.putNext w).hist2 = s.hist2 := rfl
@[simp] theorem State.putNext_coef (w : CmdWord) : (s.putNext w).coef = s.coef := rfl
@[simp] theorem State.putNext_nm1 (w : CmdWord) : (s.putNext w).nm1 = s.nm1 := rfl
@[simp] theorem State.putNext_sample (w : CmdWord) : (s.putNext w).sample = s.sample := rfl
@[simp] theorem State.putNext_out (w : CmdWord) : (s.putNext w).out = s.out := rfl
@[simp] theorem State.putNext_recon (w : CmdWord) : (s.putNext w).recon = s.recon := rfl
@[simp] theorem State.putNext_diag (w : CmdWord) : (s.putNext w).diag = s.diag := rfl
@[simp] theorem State.putNext_sovf (w : CmdWord) : (s.putNext w).sovf = s.sovf := rfl
@[simp] theorem State.putNext_cerr (w : CmdWord) : (s.putNext w).cerr = s.cerr := rfl
@[simp] theorem State.putNext_pending (w : CmdWord) : (s.putNext w).pending = .command w :: s.pending := rfl
@[simp] theorem State.putNext_responses (w : CmdWord) : (s.putNext w).responses = s.responses := rfl

/-! `applyReset` -/

@[simp] theorem State.applyReset_hist1 : (s.applyReset).hist1 = State.reset.hist1 := rfl
@[simp] theorem State.applyReset_hist2 : (s.applyReset).hist2 = State.reset.hist2 := rfl
@[simp] theorem State.applyReset_coef : (s.applyReset).coef = State.reset.coef := rfl
@[simp] theorem State.applyReset_nm1 : (s.applyReset).nm1 = State.reset.nm1 := rfl
@[simp] theorem State.applyReset_sample : (s.applyReset).sample = State.reset.sample := rfl
@[simp] theorem State.applyReset_out : (s.applyReset).out = State.reset.out := rfl
@[simp] theorem State.applyReset_recon : (s.applyReset).recon = State.reset.recon := rfl
@[simp] theorem State.applyReset_diag : (s.applyReset).diag = State.reset.diag := rfl
@[simp] theorem State.applyReset_sovf : (s.applyReset).sovf = State.reset.sovf := rfl
@[simp] theorem State.applyReset_cerr : (s.applyReset).cerr = State.reset.cerr := rfl
@[simp] theorem State.applyReset_pending : (s.applyReset).pending = s.pending := rfl
@[simp] theorem State.applyReset_responses : (s.applyReset).responses = s.responses := rfl

/-! `idle` -/

@[simp] theorem State.idle_hist1 : (s.idle).hist1 = s.hist1 := rfl
@[simp] theorem State.idle_hist2 : (s.idle).hist2 = s.hist2 := rfl
@[simp] theorem State.idle_coef : (s.idle).coef = s.coef := rfl
@[simp] theorem State.idle_nm1 : (s.idle).nm1 = s.nm1 := rfl
@[simp] theorem State.idle_sample : (s.idle).sample = s.sample := rfl
@[simp] theorem State.idle_out : (s.idle).out = s.out := rfl
@[simp] theorem State.idle_recon : (s.idle).recon = s.recon := rfl
@[simp] theorem State.idle_diag : (s.idle).diag = s.diag := rfl
@[simp] theorem State.idle_sovf : (s.idle).sovf = s.sovf := rfl
@[simp] theorem State.idle_cerr : (s.idle).cerr = s.cerr := rfl
@[simp] theorem State.idle_pending : (s.idle).pending = s.pending := rfl
@[simp] theorem State.idle_responses : (s.idle).responses = s.responses := rfl

/-! `writePass` -/

@[simp] theorem State.writePass_hist1 (r : PassResult) : (s.writePass r).hist1 = BitVec.ofInt 16 r.hist1 := rfl
@[simp] theorem State.writePass_hist2 (r : PassResult) : (s.writePass r).hist2 = BitVec.ofInt 16 r.hist2 := rfl
@[simp] theorem State.writePass_coef (r : PassResult) : (s.writePass r).coef = s.coef := rfl
@[simp] theorem State.writePass_nm1 (r : PassResult) : (s.writePass r).nm1 = s.nm1 := rfl
@[simp] theorem State.writePass_sample (r : PassResult) : (s.writePass r).sample = s.sample := rfl
@[simp] theorem State.writePass_out (r : PassResult) : (s.writePass r).out = s.out := rfl
@[simp] theorem State.writePass_recon (r : PassResult) : (s.writePass r).recon = reconBuffer r.recon := rfl
@[simp] theorem State.writePass_diag (r : PassResult) : (s.writePass r).diag = wrap64 (s.diag.toInt + r.err) := rfl
@[simp] theorem State.writePass_sovf (r : PassResult) : (s.writePass r).sovf = s.sovf := rfl
@[simp] theorem State.writePass_cerr (r : PassResult) : (s.writePass r).cerr = s.cerr := rfl
@[simp] theorem State.writePass_pending (r : PassResult) : (s.writePass r).pending = s.pending := rfl
@[simp] theorem State.writePass_responses (r : PassResult) : (s.writePass r).responses = s.responses := rfl

end Sys2Proof.Machine
end

