-- ==== Sys2Proof/Laws/Ops.lean ====
section
/-! SUPPORT. What the shared operations do: reading an entry after a write of one, taking an event, running a word, and the
two ways a meaning with an index can go. -/

namespace Sys2Proof.Machine

/-- A read of the table after a write of one coefficient. -/
theorem State.coefAt_writeCoefA1 (s : State) (i j : Nibble) (v : Half) :
    (s.writeCoefA1 i v).coefAt j = if i = j then { s.coefAt j with a1 := v } else s.coefAt j := by
  simp only [State.coefAt, State.writeCoefA1, Vector.getElem_set, BitVec.toNat_inj]
  split_ifs with h <;> simp [h]

/-- A read of the table after a write of one coefficient. -/
theorem State.coefAt_writeCoefA2 (s : State) (i j : Nibble) (v : Half) :
    (s.writeCoefA2 i v).coefAt j = if i = j then { s.coefAt j with a2 := v } else s.coefAt j := by
  simp only [State.coefAt, State.writeCoefA2, Vector.getElem_set, BitVec.toNat_inj]
  split_ifs with h <;> simp [h]

/-- A read of the block after a write of one sample. -/
theorem State.sample_writeSample (s : State) (k j : Fin 14) (v : Half) :
    (s.writeSample k v).sample[j] = if k = j then v else s.sample[j] := by
  simp [State.writeSample, Vector.getElem_set, Fin.ext_iff]

/-- The operand of a load is the immediate's own pattern (R9, R66). -/
@[simp] theorem loadOperand_eq (v : Half) : loadOperand v = v := by
  apply BitVec.eq_of_toNat_eq
  unfold loadOperand sext16
  split_ifs
  · simp [BitVec.toNat_ofInt]; omega
  · simp

/-- `sext_16` is the signed value of the pattern. -/
theorem sext16_eq_toInt (v : Half) : sext16 v = v.toInt := by
  unfold sext16
  rw [← BitVec.msb_eq_getLsbD_last, BitVec.toInt_eq_msb_cond]
  norm_num

/-- A sample index is found exactly below 14. -/
theorem sampleIndex_eq_some {k : Nibble} {j : Fin 14} : sampleIndex k = some j ↔ j.val = k.toNat := by
  unfold sampleIndex
  split_ifs with h
  · simp [Fin.ext_iff, eq_comm]
  · simp; omega

/-- A byte index is found exactly below 8. -/
theorem byteIndex_eq_some {j : Nibble} {m : Fin 8} : byteIndex j = some m ↔ m.val = j.toNat := by
  unfold byteIndex
  split_ifs with h
  · simp [Fin.ext_iff, eq_comm]
  · simp; omega

theorem sampleIndex_eq_none {k : Nibble} : sampleIndex k = none ↔ 14 ≤ k.toNat := by
  unfold sampleIndex; split_ifs <;> simp <;> omega

theorem byteIndex_eq_none {j : Nibble} : byteIndex j = none ↔ 8 ≤ j.toNat := by
  unfold byteIndex; split_ifs <;> simp <;> omega

/-- One step, by the oldest event pending. -/
theorem step_eq (s : State) : step s =
    match s.pending with
    | [] => .next s
    | .reset :: rest => .next ({ s with pending := rest } : State).applyReset
    | .command w :: rest => runWord w { s with pending := rest } := by
  unfold step runNext State.takeEvent
  rcases s.pending with _ | ⟨_ | _, _⟩ <;> rfl

/-- What running a word can do: a legal word is its command, an illegal one only records `CERR`. -/
theorem runWord_cases {w : CmdWord} {s t : State} (h : runWord w s = .next t) :
    (∃ i, decode w = .ok i ∧ exec i s = .next t) ∨ (isIllegal w = true ∧ t = s.illegal) := by
  unfold runWord at h
  unfold isIllegal
  cases hd : decode w with
  | ok i => exact .inl ⟨i, rfl, by simpa [hd] using h⟩
  | error e => exact .inr ⟨rfl, by simpa [hd, eq_comm] using h⟩

/-- What a step can do. -/
theorem step_cases {s t : State} (h : step s = .next t) :
    (s.pending = [] ∧ t = s) ∨
    (∃ rest, s.pending = .reset :: rest ∧ t = ({ s with pending := rest } : State).applyReset) ∨
    (∃ w rest, s.pending = .command w :: rest ∧ runWord w { s with pending := rest } = .next t) := by
  rw [step_eq] at h
  rcases hp : s.pending with _ | ⟨_ | _, rest⟩ <;> simp only [hp] at h
  · exact .inl ⟨rfl, by simpa [eq_comm] using h⟩
  · exact .inr (.inr ⟨_, rest, rfl, h⟩)
  · exact .inr (.inl ⟨rest, rfl, by simpa [eq_comm] using h⟩)

/-- What a command can do: the state after it, by constructor. -/
theorem exec_cases {i : Instr} {s t : State} (h : exec i s = .next t) :
    (i = .nop ∧ t = s) ∨ (∃ n, i = .ldn n ∧ t = s.writeNm1 n) ∨
    (∃ c v, i = .lda1 c v ∧ t = s.writeCoefA1 c v) ∨ (∃ c v, i = .lda2 c v ∧ t = s.writeCoefA2 c v) ∨
    (∃ v, i = .ldh1 v ∧ t = s.writeHist1 v) ∨ (∃ v, i = .ldh2 v ∧ t = s.writeHist2 v) ∨
    (∃ k v m, i = .lds k v ∧ sampleIndex k = some m ∧ t = s.writeSample m v) ∨
    (i = .enc ∧ t = s.encodeBlock) ∨ (isRead i = true ∧ ∃ v, t = s.respond v) ∨
    (i = .clr ∧ t = (s.writeDiag 0).clearSovf) ∨ (i.wellFormed = false ∧ t = s.illegal) := by
  cases i <;>
    simp only [exec, execNop, execLdn, execLda1, execLda2, execLdh1, execLdh2, execEnc, execRdh1, execRdh2, execRdd,
      execRds, execClr, loadOperand_eq, Host.Outcome.next.injEq] at h <;>
    (try subst h) <;> (try simp [isRead])
  case lds k v =>
    unfold execLds at h
    cases hk : sampleIndex k with
    | some m => simp [hk] at h; simp [h]
    | none =>
      simp [hk] at h
      exact .inr ⟨by simpa [Instr.wellFormed] using sampleIndex_eq_none.1 hk, h.symm⟩
  case rdo j =>
    unfold execRdo at h
    cases hj : byteIndex j with
    | some m => simp [hj] at h; exact .inl ⟨_, h.symm⟩
    | none =>
      simp [hj] at h
      exact .inr ⟨by simpa [Instr.wellFormed] using byteIndex_eq_none.1 hj, h.symm⟩
  case rdr k =>
    unfold execRdr at h
    cases hk : sampleIndex k with
    | some m => simp [hk] at h; exact .inl ⟨_, h.symm⟩
    | none =>
      simp [hk] at h
      exact .inr ⟨by simpa [Instr.wellFormed] using sampleIndex_eq_none.1 hk, h.symm⟩

end Sys2Proof.Machine
end

