-- ==== Sys2Proof/Laws/Encode.lean ====
section
/-! SUPPORT. What the stages of `ENC` do: bounds and lengths of the passes, the encoder's pass and the decoder's pass side by
side, and `encodeBlock` field by field. -/

namespace Sys2Proof.Machine

/-! ## Arithmetic -/

/-- `clamp16` as a minimum and a maximum (R83). -/
theorem clamp16_eq (x : Int) : clamp16 x = max (-32768) (min 32767 x) := by
  unfold clamp16 Config.satMin Config.satMax
  split_ifs <;> omega

/-- `clamp16` yields a signed 16-bit value (R83). -/
theorem clamp16_bounds (x : Int) : -32768 ≤ clamp16 x ∧ clamp16 x ≤ 32767 := by
  rw [clamp16_eq]; omega

/-- A signed 16-bit value survives being put into a 16-bit element. -/
theorem toInt_ofInt16 {x : Int} (h : -32768 ≤ x ∧ x ≤ 32767) : (BitVec.ofInt 16 x).toInt = x := by
  rw [BitVec.toInt_ofInt]
  exact Int.bmod_eq_of_le (by norm_num; omega) (by norm_num; omega)

/-- A 16-bit element holds a signed 16-bit value. -/
theorem toInt_bounds16 (v : Half) : -32768 ≤ v.toInt ∧ v.toInt ≤ 32767 := by
  have h1 := BitVec.le_toInt v
  have h2 := BitVec.toInt_lt (x := v)
  norm_num at h1 h2
  omega

/-- The reconstruction of a sample is a signed 16-bit value (R121). -/
theorem reconOf_bounds (q : Nibble) (e : Nat) (t : Int) : -32768 ≤ reconOf q e t ∧ reconOf q e t ≤ 32767 :=
  clamp16_bounds _

/-- The exponent is at most 15 (R112, R113). -/
theorem scale_le (rmax rmin : Int) : (scale rmax rmin).1 ≤ 15 := by
  unfold scale
  split
  · rename_i e h
    have := List.mem_of_find?_eq_some h
    simp at this
    omega
  · decide

/-! ## The passes -/

@[simp] theorem State.samples_length (s : State) : s.samples.length = 14 := by simp [State.samples]

@[simp] theorem replayErrs_length (a1 a2 h1 h2 : Int) (ss : List Int) : (replayErrs a1 a2 h1 h2 ss).length = ss.length := by
  induction ss generalizing h1 h2 with
  | nil => rfl
  | cons s rest ih => simp [replayErrs, ih]

@[simp] theorem quantPass_codes_length (a1 a2 : Int) (e : Nat) (h1 h2 : Int) (ss : List Int) :
    (quantPass a1 a2 e h1 h2 ss).codes.length = ss.length := by
  induction ss generalizing h1 h2 with
  | nil => rfl
  | cons s rest ih => simp [quantPass, ih]

@[simp] theorem quantPass_recon_length (a1 a2 : Int) (e : Nat) (h1 h2 : Int) (ss : List Int) :
    (quantPass a1 a2 e h1 h2 ss).recon.length = ss.length := by
  induction ss generalizing h1 h2 with
  | nil => rfl
  | cons s rest ih => simp [quantPass, ih]

/-- Every reconstructed sample of the final pass is a signed 16-bit value (R129). -/
theorem quantPass_recon_bounds (a1 a2 : Int) (e : Nat) (h1 h2 : Int) (ss : List Int) :
    ∀ y ∈ (quantPass a1 a2 e h1 h2 ss).recon, -32768 ≤ y ∧ y ≤ 32767 := by
  induction ss generalizing h1 h2 with
  | nil => simp [quantPass]
  | cons s rest ih =>
    intro y hy
    simp only [quantPass, List.mem_cons] at hy
    rcases hy with rfl | hy
    · exact reconOf_bounds _ _ _
    · exact ih _ _ y hy

/-- The history a pass leaves is the last two entries of the sequence `h2, h1, y[0], y[1], ...` (R122). -/
theorem quantPass_history (a1 a2 : Int) (e : Nat) (h1 h2 : Int) (ss : List Int) :
    (quantPass a1 a2 e h1 h2 ss).hist1 = (h2 :: h1 :: (quantPass a1 a2 e h1 h2 ss).recon).getD (ss.length + 1) 0 ∧
      (quantPass a1 a2 e h1 h2 ss).hist2 = (h2 :: h1 :: (quantPass a1 a2 e h1 h2 ss).recon).getD ss.length 0 := by
  induction ss generalizing h1 h2 with
  | nil => simp [quantPass]
  | cons s rest ih =>
    simp only [quantPass, List.length_cons]
    exact ⟨by simpa using (ih _ _).1, by simpa using (ih _ _).2⟩

/-- The decoder's pass over the encoder's codes computes the encoder's reconstructions and history: both use the same term,
the same code and the same reconstruction at every sample (R127). -/
theorem decodePass_quantPass (a1 a2 : Int) (e : Nat) (h1 h2 : Int) (ss : List Int) :
    decodePass a1 a2 e h1 h2 (quantPass a1 a2 e h1 h2 ss).codes =
      ((quantPass a1 a2 e h1 h2 ss).recon, (quantPass a1 a2 e h1 h2 ss).hist1,
        (quantPass a1 a2 e h1 h2 ss).hist2) := by
  induction ss generalizing h1 h2 with
  | nil => rfl
  | cons s rest ih => simp [quantPass, decodePass, ih]

/-- An entry of `RECON` as the pass computed it. -/
theorem reconBuffer_getElem (ys : List Int) (k : Fin 14) : (reconBuffer ys)[k] = BitVec.ofInt 16 (ys.getD k.val 0) := by
  simp [reconBuffer]

/-- A byte of a packed block. -/
theorem pack_getElem (sel : Nibble) (e : Nat) (codes : List Nibble) (j : Fin 8) :
    (pack sel e codes)[j] = packByte sel e codes j.val := by
  simp [pack]

/-- The scan's choice is the index it started with or one of those scanned. -/
theorem scanLeast_lt (best : Nat) (least : Int) (i : Nat) (as : List Int) (h : best < i) :
    scanLeast best least i as < i + as.length := by
  induction as generalizing best least i with
  | nil => simpa [scanLeast] using h
  | cons a rest ih =>
    simp only [scanLeast, List.length_cons]
    split_ifs
    · have := ih i a (i + 1) (by omega); omega
    · have := ih best least (i + 1) (by omega); omega

/-- There is one accumulator per candidate (R101). -/
@[simp] theorem State.accs_length (s : State) : s.accs.length = s.candidateCount := by
  have := s.nm1.isLt
  simp [State.accs, State.candidateCount]
  omega

/-- The chosen index is a candidate's (R102). -/
theorem leastIndex_accs_lt (s : State) : leastIndex s.accs < s.candidateCount := by
  have hl := s.accs_length
  rcases ha : s.accs with _ | ⟨a, rest⟩
  · simp [ha, State.candidateCount] at hl
  · have := scanLeast_lt 0 a 1 rest (by omega)
    simp only [ha, List.length_cons] at hl
    simp only [leastIndex]
    omega

/-- The four-bit field holds the chosen index whole (R61). -/
theorem State.select_toNat (s : State) : s.select.toNat = leastIndex s.accs := by
  have h := leastIndex_accs_lt s
  have := s.nm1.isLt
  simp only [State.candidateCount] at h
  simp only [State.select, BitVec.toNat_ofNat]
  omega

/-- The chosen index is at most `NM1`. -/
theorem State.select_le (s : State) : s.select.toNat ≤ s.nm1.toNat := by
  have h := leastIndex_accs_lt s
  rw [s.select_toNat]
  simp only [State.candidateCount] at h
  omega

/-! ## `encodeBlock`, field by field -/

section
variable (s : State)

/-- The pair the selector chose. -/
abbrev State.chosen : CoefPair := s.coefAt s.select

/-- The exponent of the block, and whether the scale was unreachable. -/
abbrev State.blockScale : Nat × Bool := s.scaleFor s.chosen

/-- The final pass of the block. -/
abbrev State.finalPass : PassResult := s.quantize s.chosen s.blockScale.1

@[simp] theorem State.encodeBlock_hist1 : s.encodeBlock.hist1 = BitVec.ofInt 16 s.finalPass.hist1 := rfl
@[simp] theorem State.encodeBlock_hist2 : s.encodeBlock.hist2 = BitVec.ofInt 16 s.finalPass.hist2 := rfl
@[simp] theorem State.encodeBlock_out : s.encodeBlock.out = pack s.select s.blockScale.1 s.finalPass.codes := rfl
@[simp] theorem State.encodeBlock_recon : s.encodeBlock.recon = reconBuffer s.finalPass.recon := rfl
@[simp] theorem State.encodeBlock_diag : s.encodeBlock.diag = wrap64 (s.diag.toInt + s.finalPass.err) := by
  simp [State.encodeBlock]
@[simp] theorem State.encodeBlock_sovf : s.encodeBlock.sovf = (s.sovf || s.blockScale.2) := by simp [State.encodeBlock]
@[simp] theorem State.encodeBlock_cerr : s.encodeBlock.cerr = s.cerr := by simp [State.encodeBlock]
@[simp] theorem State.encodeBlock_coef : s.encodeBlock.coef = s.coef := by simp [State.encodeBlock]
@[simp] theorem State.encodeBlock_nm1 : s.encodeBlock.nm1 = s.nm1 := by simp [State.encodeBlock]
@[simp] theorem State.encodeBlock_sample : s.encodeBlock.sample = s.sample := by simp [State.encodeBlock]
@[simp] theorem State.encodeBlock_pending : s.encodeBlock.pending = s.pending := by simp [State.encodeBlock]
@[simp] theorem State.encodeBlock_responses : s.encodeBlock.responses = s.responses := by simp [State.encodeBlock]

/-- All that `ENC` writes, in one record (R140). -/
theorem State.encodeBlock_eq : s.encodeBlock =
    { s with
      out := pack s.select s.blockScale.1 s.finalPass.codes, recon := reconBuffer s.finalPass.recon,
      hist1 := BitVec.ofInt 16 s.finalPass.hist1, hist2 := BitVec.ofInt 16 s.finalPass.hist2,
      diag := wrap64 (s.diag.toInt + s.finalPass.err), sovf := s.sovf || s.blockScale.2 } := by
  ext1 <;> simp

end

end Sys2Proof.Machine
end

