-- ==== Sys2Proof/Laws/PerInstr.lean ====
section
/-! SUPPORT. The family EncodeFields, one lemma per constructor: the word of a command carries the command's own opcode and
a `zero` field of 0, so no command's word is another's (`30_encoding.md` R65, R68). -/

namespace Sys2Proof.Laws.EncodeFields

/-- The value of `op` in R68, by command. -/
def opcode : Instr → Nibble
  | .nop => 0x0
  | .ldn _ => 0x1
  | .lda1 _ _ => 0x2
  | .lda2 _ _ => 0x3
  | .ldh1 _ => 0x4
  | .ldh2 _ => 0x5
  | .lds _ _ => 0x6
  | .enc => 0x7
  | .rdo _ => 0x8
  | .rdh1 => 0x9
  | .rdh2 => 0xA
  | .rdr _ => 0xB
  | .rdd => 0xC
  | .rds => 0xD
  | .clr => 0xE

/-- The word's `op` and `zero` fields. -/
def Statement (i : Instr) : Prop := fieldOp (encode i) = opcode i ∧ fieldZero (encode i) = 0

theorem nop : Statement .nop := ⟨fieldOp_packFields _ _ _, fieldZero_packFields _ _ _⟩
theorem ldn (n : Nibble) : Statement (.ldn n) := ⟨fieldOp_packFields _ _ _, fieldZero_packFields _ _ _⟩
theorem lda1 (i : Nibble) (v : Half) : Statement (.lda1 i v) := ⟨fieldOp_packFields _ _ _, fieldZero_packFields _ _ _⟩
theorem lda2 (i : Nibble) (v : Half) : Statement (.lda2 i v) := ⟨fieldOp_packFields _ _ _, fieldZero_packFields _ _ _⟩
theorem ldh1 (v : Half) : Statement (.ldh1 v) := ⟨fieldOp_packFields _ _ _, fieldZero_packFields _ _ _⟩
theorem ldh2 (v : Half) : Statement (.ldh2 v) := ⟨fieldOp_packFields _ _ _, fieldZero_packFields _ _ _⟩
theorem lds (k : Nibble) (v : Half) : Statement (.lds k v) := ⟨fieldOp_packFields _ _ _, fieldZero_packFields _ _ _⟩
theorem enc : Statement .enc := ⟨fieldOp_packFields _ _ _, fieldZero_packFields _ _ _⟩
theorem rdo (j : Nibble) : Statement (.rdo j) := ⟨fieldOp_packFields _ _ _, fieldZero_packFields _ _ _⟩
theorem rdh1 : Statement .rdh1 := ⟨fieldOp_packFields _ _ _, fieldZero_packFields _ _ _⟩
theorem rdh2 : Statement .rdh2 := ⟨fieldOp_packFields _ _ _, fieldZero_packFields _ _ _⟩
theorem rdr (k : Nibble) : Statement (.rdr k) := ⟨fieldOp_packFields _ _ _, fieldZero_packFields _ _ _⟩
theorem rdd : Statement .rdd := ⟨fieldOp_packFields _ _ _, fieldZero_packFields _ _ _⟩
theorem rds : Statement .rds := ⟨fieldOp_packFields _ _ _, fieldZero_packFields _ _ _⟩
theorem clr : Statement .clr := ⟨fieldOp_packFields _ _ _, fieldZero_packFields _ _ _⟩

end Sys2Proof.Laws.EncodeFields
end

