-- ==== Sys2Proof/Machine/Trainer.lean ====
section
/-! DEFINITION. The parts of the Coefficient Trainer the source fixes, the vote table and the extraction of the N best pairs
(`70_reset_and_hazards.md` R207, R208). The trainer runs on the host and is no part of the unit (`00_scope.md` R5 a). How a
block yields its pair is not modelled: the source leaves its sums and divisions open (N16, log 14). -/

namespace Sys2Proof.Machine

/-- The vote table: distinct pairs with their counts (R207). -/
abbrev VoteTable := List (CoefPair × Nat)

/-- One block's vote: found by exact equality and counted, or put in with count 1 (R207). DESIGN CHOICE, log 16: the list
keeps the order of insertion, which the source does not promise as the table's order of iteration
(`93_implementation_defined.md` U5). -/
def vote : VoteTable → CoefPair → VoteTable
  | [], p => [(p, 1)]
  | (q, n) :: rest, p => if q = p then (q, n + 1) :: rest else (q, n) :: vote rest p

/-- The table after one vote per block (R207). -/
def votes (pairs : List CoefPair) : VoteTable := pairs.foldl vote []

/-- The pair with the largest count, the first one the iteration meets on ties; the zero pair where no count is left
(R208). -/
def mostVoted (table : VoteTable) : CoefPair :=
  (table.foldl (fun best entry => if best.2 < entry.2 then entry else best) (⟨0, 0⟩, 0)).1

/-- The count of a pair that was copied out becomes zero (R208). -/
def withoutVotes (p : CoefPair) (table : VoteTable) : VoteTable :=
  table.map fun entry => if entry.1 = p then (entry.1, 0) else entry

/-- The N best pairs, slot 0 first (R208). The order in which the table is iterated is a parameter of the trainer (U5):
`order` lists the table's entries in it, and `id` is the order of insertion. -/
def nBest (order : VoteTable → VoteTable) : Nat → VoteTable → List CoefPair
  | 0, _ => []
  | n + 1, table =>
    let best := mostVoted (order table)
    best :: nBest order n (withoutVotes best table)

end Sys2Proof.Machine
end

