-- ==== Sys2Proof/Tests/Slice0.lean ====
section
/-! SUPPORT. Tests. Every expected value is the spec's own: the vectors V-... of `95_test_vectors.md` and
`96_test_vectors_quantize.md`, the programs of `97_test_programs.md`, or the rule the comment names. After them, for every
statement with hypotheses, a witness that meets them, clause by clause. -/

namespace Sys2Proof.Tests

open Sys2Proof.Machine

/-! ## Well-formed commands (R68's extra constraints, at both sides of the bound) -/

theorem test_wellFormed_lds : (Instr.lds 13 0).wellFormed = true ∧ (Instr.lds 14 0).wellFormed = false := by decide
theorem test_wellFormed_rdr : (Instr.rdr 13).wellFormed = true ∧ (Instr.rdr 14).wellFormed = false := by decide
theorem test_wellFormed_rdo : (Instr.rdo 7).wellFormed = true ∧ (Instr.rdo 8).wellFormed = false := by decide

/-! ## Words of R68 and V-CMD, the load family bit by bit: op, idx, zero, imm -/

theorem test_decode_nop : decode 0b00000000000000000000000000000000 = .ok .nop := rfl
theorem test_decode_ldn : decode (0b0001#4 ++ 0b0111#4 ++ 0b00000000#8 ++ 0b0000000000000000#16) = .ok (.ldn 7) := rfl
theorem test_decode_lda1 :
    decode (0b0010#4 ++ 0b1111#4 ++ 0b00000000#8 ++ 0b1000000000000000#16) = .ok (.lda1 15 (-32768)) := rfl
theorem test_decode_lda2 :
    decode (0b0011#4 ++ 0b1001#4 ++ 0b00000000#8 ++ 0b0111111111111111#16) = .ok (.lda2 9 32767) := rfl
theorem test_decode_ldh1 :
    decode (0b0100#4 ++ 0b0000#4 ++ 0b00000000#8 ++ 0b1111111110011100#16) = .ok (.ldh1 (-100)) := rfl
theorem test_decode_ldh2 :
    decode (0b0101#4 ++ 0b0000#4 ++ 0b00000000#8 ++ 0b1111111100111000#16) = .ok (.ldh2 (-200)) := rfl
theorem test_decode_lds :
    decode (0b0110#4 ++ 0b1101#4 ++ 0b00000000#8 ++ 0b0000010100010100#16) = .ok (.lds 13 1300) := rfl
theorem test_decode_enc : decode 0b01110000000000000000000000000000 = .ok .enc := rfl
theorem test_decode_rdo : decode 0b10000111000000000000000000000000 = .ok (.rdo 7) := rfl
theorem test_decode_rdh1 : decode 0b10010000000000000000000000000000 = .ok .rdh1 := rfl
theorem test_decode_rdh2 : decode 0b10100000000000000000000000000000 = .ok .rdh2 := rfl
theorem test_decode_rdr : decode 0b10111010000000000000000000000000 = .ok (.rdr 10) := rfl
theorem test_decode_rdd : decode 0b11000000000000000000000000000000 = .ok .rdd := rfl
theorem test_decode_rds : decode 0b11010000000000000000000000000000 = .ok .rds := rfl
theorem test_decode_clr : decode 0b11100000000000000000000000000000 = .ok .clr := rfl

/-- V-CMD: the encoder's words. -/
theorem test_encode : [Instr.ldn 15, .lda1 0 4096, .lda2 0 (-2048), .lds 8 (-50), .rdo 0, .rdr 13, .clr].map encode =
    [0x1F000000, 0x20001000, 0x3000F800, 0x6800FFCE, 0x80000000, 0xBD000000, 0xE0000000] := by decide

/-- V-ILL. -/
theorem test_illegal : ([0xF0000000#32, 0xFFFFFFFF, 0x00000001, 0x01000000, 0x00010000, 0x10000001, 0x20011000,
    0x41000000, 0x5F000000, 0x6E000001, 0x6F000000, 0x70010000] : List CmdWord).all isIllegal = true := by decide +kernel

/-- V-ILL, continued. -/
theorem test_illegal_more : ([0x70000001#32, 0x71000000, 0x88000000, 0x8F000000, 0x80000001, 0x91000000,
    0xA0000100, 0xBE000000, 0xC0800000, 0xD0000002, 0xE1000000] : List CmdWord).all isIllegal = true := by decide +kernel

/-- V-ILL, the legal neighbours. -/
theorem test_legal_neighbours :
    ([0x6D000001#32, 0x87000000, 0xBD000000, 0x1F000000, 0x2F00FFFF] : List CmdWord).any isIllegal = false := by decide +kernel

/-! ## The primitives (V-ASR, V-CLAMP, V-NIB, V-PRED, V-WRAP64, V-PACK, V-SCL-1) -/

theorem test_asr : asr (-1) 11 = -1 ∧ asr (-2049) 11 = -2 ∧ asr 2047 11 = 0 ∧ asr (-22251) 11 = -11 ∧
    asr (-2199023255552) 11 = -1073741824 := by decide
theorem test_clamp16 : clamp16 32768 = 32767 ∧ clamp16 (-32769) = -32768 ∧ clamp16 (-32768) = -32768 := by decide
theorem test_nibble : sext4 (maskNibble 8) = -8 ∧ sext4 (maskNibble (-9)) = 7 ∧ sext4 (maskNibble (-34)) = -2 ∧
    maskNibble (-11) = 5 := by decide
/-- V-PRED, its second and its fourth row. -/
theorem test_sample : predict 4096 (-2048) (-1) (-100) = 200704 ∧ errOf 100 200704 = 3072 ∧ resOf 100 200704 = 1 ∧
    reconOf 1 0 200704 = 99 ∧ quantCode 3000 (-4173824) 11 = 2 ∧ reconOf 2 11 (-4173824) = 2058 := by decide
/-- V-PRED, the row `2048 0 -1 0 0`: a zero sample after the reconstruction -1 (log 11). -/
theorem test_sample_silent : predict 2048 0 (-1) 0 = -2048 ∧ errOf 0 (-2048) = 1024 ∧ resOf 0 (-2048) = 0 ∧
    quantCode 0 (-2048) 0 = 0 ∧ reconOf 0 0 (-2048) = -1 := by decide
/-- V-PRED, the rows with coefficients -32768. -/
theorem test_sample_clamped : predict (-32768) (-32768) (-32768) (-32768) = 2147483648 ∧
    reconOf 0 15 2147483648 = 32767 ∧ reconOf 0xE 15 (-2147418112) = -32768 := by decide
theorem test_wrap64 : wrap64 18446744073709551621 = 5 ∧ wrap64 9223372036854775808 = 0x8000000000000000 ∧
    wrap64 (-262140) = 0xFFFFFFFFFFFC0004 := by decide +kernel
theorem test_pack :
    pack 7 3 [0, 1, 2, 3, 4, 5, 6, 7, 8, 9, 0xA, 0xB, 0xC, 0xD] = #v[0x73, 0x01, 0x23, 0x45, 0x67, 0x89, 0xAB, 0xCD] := by
  decide
theorem test_scale : scale 7 (-8) = (0, false) ∧ scale 8 (-8) = (1, false) ∧ scale 7 (-9) = (1, false) ∧
    scale 262143 (-262144) = (15, false) ∧ scale 262144 (-262144) = (15, true) ∧
    scale 262143 (-262145) = (15, true) := by decide

/-! ## Commands -/

/-- The state after a step, if there is one. -/
def next? : Result → Option State
  | .next t => some t
  | .fault _ => none
  | .refused _ => none

/-- V-CMD `0x1F000000`. -/
theorem test_ldn : exec (.ldn 15) State.reset = .next { State.reset with nm1 := 15 } := rfl
/-- V-CMD `0x2F008000`. -/
theorem test_lda1 : (next? (exec (.lda1 15 0x8000) State.reset)).map (·.coef[15]) = some ⟨-32768, 0⟩ := by decide
/-- V-CMD `0x39007FFF`. -/
theorem test_lda2 : (next? (exec (.lda2 9 0x7FFF) State.reset)).map (·.coef[9]) = some ⟨0, 32767⟩ := by decide
/-- V-CMD `0x4000FF9C`. -/
theorem test_ldh1 : (next? (exec (.ldh1 0xFF9C) State.reset)).map (·.hist1.toInt) = some (-100) := by decide
/-- V-CMD `0x5000FF38`. -/
theorem test_ldh2 : (next? (exec (.ldh2 0xFF38) State.reset)).map (·.hist2.toInt) = some (-200) := by decide
/-- V-CMD `0x6800FFCE`. -/
theorem test_lds : (next? (exec (.lds 8 0xFFCE) State.reset)).map (·.sample[8].toInt) = some (-50) := by decide
/-- V-CMD `0x87000000`, the byte of P2. -/
theorem test_rdo : exec (.rdo 7) { State.reset with out := #v[0x0B, 0xF2, 0xD2, 0x39, 0x40, 0xF6, 0x58, 0xEF] } =
    .next { State.reset with
      out := #v[0x0B, 0xF2, 0xD2, 0x39, 0x40, 0xF6, 0x58, 0xEF], responses := [0x00000000000000EF] } := rfl
/-- V-CMD `0x90000000`. -/
theorem test_rdh1 : (next? (exec .rdh1 { State.reset with hist1 := -2038 })).map (·.responses) =
    some [0xFFFFFFFFFFFFF80A] := by decide
/-- V-CMD `0xA0000000`. -/
theorem test_rdh2 : (next? (exec .rdh2 { State.reset with hist2 := 10 })).map (·.responses) = some [0x000000000000000A] := by
  decide
/-- V-CMD `0xBA000000`. -/
theorem test_rdr : (next? (exec (.rdr 10) { State.reset with recon := (Vector.replicate 14 0).set 10 20490 })).map
    (·.responses) = some [0x000000000000500A] := by decide
/-- V-CMD `0xC0000000`; the response goes after the earlier ones (R48). -/
theorem test_rdd : (next? (exec .rdd { State.reset with diag := -15517, responses := [1] })).map (·.responses) =
    some [1, 0xFFFFFFFFFFFFC363] := by decide
/-- R26: bit 0 `SOVF`, bit 1 `CERR`. -/
theorem test_rds : (next? (exec .rds { State.reset with sovf := true })).map (·.responses) = some [1] ∧
    (next? (exec .rds { State.reset with cerr := true })).map (·.responses) = some [2] := by decide
/-- R171: `CERR` is kept. -/
theorem test_clr : exec .clr { State.reset with diag := 5, sovf := true, cerr := true } =
    .next { State.reset with cerr := true } := rfl
/-- R170. -/
theorem test_nop : exec .nop State.reset = .next State.reset := rfl

/-- A state before an `ENC`. -/
def before (coefs : List CoefPair) (nm1 : Nibble) (h1 h2 : Half) (block : Vector Half 14) : State :=
  { State.reset with coef := Vector.ofFn fun i => coefs.getD i.val ⟨0, 0⟩, nm1 := nm1, hist1 := h1, hist2 := h2,
                     sample := block }

/-- The block of V-QNT-2 and V-SEL-4. -/
def mixed : Vector Half 14 := #v[0, 3000, -2500, 1200, 8000, -7000, 400, 50, -50, 12000, -12000, 6000, 100, -1]

/-- V-SEL-4: duplicate pairs tie, the lower index is stored; a code wraps. -/
theorem test_enc_mixed :
    (next? (exec .enc (before [⟨1024, 512⟩, ⟨2048, 0⟩, ⟨2048, 0⟩, ⟨1024, 512⟩] 3 10 (-10) mixed))).map
      (fun t => (t.out, t.recon, t.diag)) =
    some (#v[0x1B, 0xF2, 0xD2, 0x39, 0x40, 0xF6, 0x58, 0xEF],
      #v[-2038, 2058, -4086, 10, 6154, -8182, 10, 10, -2038, 10250, 20490, 4106, 10, -2038], -15517) := by decide +kernel

/-- V-SCL-OVF: the unreachable scale, with `SOVF`, the clamp and the sum of the errors. -/
theorem test_enc_unreachable :
    (next? (exec .enc (before [⟨-32768, -32768⟩] 0 32767 32767 (Vector.replicate 14 (-32768))))).map
      (fun t => (t.out, t.sovf, t.hist1, t.diag)) =
    some (#v[0x0F, 0xEE, 0xEE, 0xEE, 0xEE, 0xEE, 0xEE, 0xEE], true, -32768, -262140) := by decide +kernel

/-- V-SEL-2: candidates whose residuals cancel tie, and index 0 is stored. -/
theorem test_select_tie : (before [⟨0, 0⟩, ⟨2048, 0⟩] 1 0 0
      #v[1000, -1000, 1000, -1000, 1000, -1000, 1000, -1000, 1000, -1000, 1000, -1000, 1000, -1000]).accs =
    [-14336, -14336] := by decide +kernel

/-- V-DEC. -/
theorem test_decodeBlock : (decodeBlock #v[0x0B, 0xF2, 0xD2, 0x39, 0x40, 0xF6, 0x58, 0xEF]
      ((Vector.replicate 16 ⟨0, 0⟩).set 0 ⟨2048, 0⟩) 10 (-10)).recon =
    #v[-2038, 2058, -4086, 10, 6154, -8182, 10, 10, -2038, 10250, 20490, 4106, 10, -2038] := by decide +kernel

/-- V-SEED. -/
theorem test_historySeed : historySeed 0 100 = (-100, -200) ∧ historySeed 500 450 = (550, 600) ∧
    historySeed (-32768) 32767 = (-98303, -163838) := by decide

/-- V-PAD; 28 samples make two blocks (`95_test_vectors.md`, the scenario). -/
theorem test_padBlock : padBlock [5, 6, 7] = #v[5, 6, 7, 0, 0, 0, 0, 0, 0, 0, 0, 0, 0, 0] ∧
    (blocksOf 28 (List.replicate 28 0)).length = 2 := by decide

/-- R208, iterated in the order of insertion and in the reverse one: the first met wins a tie; where no count is left the
slot is the zero pair. -/
theorem test_nBest :
    nBest id 4 (votes [⟨1, 0⟩, ⟨2, 0⟩, ⟨3, 0⟩, ⟨3, 0⟩, ⟨2, 0⟩]) = [⟨2, 0⟩, ⟨3, 0⟩, ⟨1, 0⟩, ⟨0, 0⟩] ∧
    nBest List.reverse 2 (votes [⟨1, 0⟩, ⟨2, 0⟩, ⟨3, 0⟩, ⟨3, 0⟩, ⟨2, 0⟩]) = [⟨3, 0⟩, ⟨2, 0⟩] := by decide

/-- P1, lines 1 to 4: one line of the assembler is one word or a pseudo-instruction's words. -/
theorem test_assembleLine : assembleLine "LDC 0, 4096, -2048".toList = some [0x20001000, 0x3000F800] ∧
    assembleLine "SEED -100, -200".toList = some [0x4000FF9C, 0x5000FF38] ∧
    assembleLine "LDN 0".toList = some [0x10000000] := by decide +kernel

/-- The table's word at the next step: `LDH1 -100` is the first command after reset. -/
theorem test_withFetchWord : decodeTableWord 32 0x4000FF9C = some (.ldh1 (-100)) ∧
    step (State.reset.withFetchWord 32 0x4000FF9C) = .next { State.reset with hist1 := -100 } := ⟨rfl, rfl⟩

/-! ## Witnesses -/

/-- The state with some words sent. -/
def sent (es : List HostEvent) : State := { State.reset with pending := es }

theorem witness_DecodeOfEncode : (Instr.lds 13 0xFFFF).wellFormed = true := by decide
theorem witness_EncodeOfDecode : decode 0x6D00FFFF = .ok (.lds 13 0xFFFF) := rfl
theorem witness_OpcodeMapDecides : ∃ r ∈ opcodeRows, r.covers 0xBD000000 = true := by decide
theorem witness_OpcodeMapDecides_refused : ∃ r ∈ opcodeRows, r.covers 0xBE000000 = false := by decide
theorem witness_OpcodeMapDecides_legal : decode 0xBD000000 = .ok (.rdr 13) := rfl
theorem witness_IllegalWordsAndTheirEffect : isIllegal 0x6E000001 = true := by decide
theorem witness_StepRunsDecodedCommand :
    (sent [.command 0x6D000514]).pending = .command 0x6D000514 :: [] ∧ decode 0x6D000514 = .ok (.lds 13 1300) :=
  ⟨rfl, rfl⟩
theorem witness_IdleStepKeepsState : State.reset.pending = [] := rfl
theorem witness_ResetEventZeroesEveryElement : (sent [.reset, .command 0]).pending = .reset :: [.command 0] := rfl
theorem witness_LdnSetsCandidateCount : fieldOp 0x1F000000 = 0x1 := rfl
theorem witness_Lda1WritesFirstCoefficient : fieldOp 0x2F008000 = 0x2 := rfl
theorem witness_Lda1WritesFirstCoefficient_slot : (15 : Fin 16).val = (15 : Nibble).toNat := rfl
theorem witness_Lda1WritesFirstCoefficient_other : (0 : Fin 16).val ≠ (15 : Nibble).toNat := by decide
theorem witness_Lda2WritesSecondCoefficient : fieldOp 0x39007FFF = 0x3 := rfl
theorem witness_Lda2WritesSecondCoefficient_slot : (0 : Fin 16).val = (0 : Nibble).toNat := rfl
theorem witness_Lda2WritesSecondCoefficient_other : (15 : Fin 16).val ≠ (0 : Nibble).toNat := by decide
theorem witness_Ldh1WritesHist1 : fieldOp 0x4000FF9C = 0x4 := rfl
theorem witness_Ldh2WritesHist2 : fieldOp 0x5000FF38 = 0x5 := rfl
theorem witness_LdsWritesOneSample : (13 : Nibble).toNat ≤ 13 := by decide
theorem witness_LdsWritesOneSample_word : fieldOp 0x6D000514 = 0x6 := rfl
theorem witness_LdsWritesOneSample_entry : (13 : Fin 14).val = (13 : Nibble).toNat := rfl
theorem witness_LdsWritesOneSample_other : (0 : Fin 14).val ≠ (13 : Nibble).toNat := by decide
theorem witness_ImmediateIsSignExtended_negative : (0x8000 : Half).getLsbD 15 = true := rfl
theorem witness_ImmediateIsSignExtended_positive : (0x7FFF : Half).getLsbD 15 = false := rfl
theorem witness_RdoRespondsWithByte : (7 : Nibble).toNat ≤ 7 ∧ (7 : Fin 8).val = (7 : Nibble).toNat := by decide
theorem witness_RdoRespondsWithByte_word : fieldOp 0x88000000 = 0x8 := rfl
theorem witness_HistoryReadsRespondWithHistory : fieldOp 0x91000000 = 0x9 ∧ fieldOp 0xA0000100 = 0xA := by decide
theorem witness_RdrRespondsWithReconstruction : (13 : Nibble).toNat ≤ 13 ∧ (13 : Fin 14).val = (13 : Nibble).toNat := by
  decide
theorem witness_RdrRespondsWithReconstruction_word : fieldOp 0xBE000000 = 0xB := rfl
theorem witness_RddRespondsWithDiag : fieldOp 0xC0800000 = 0xC := rfl
theorem witness_RdsRespondsWithStatus : fieldOp 0xD0000002 = 0xD ∧ (2 : Nat) ≤ 2 := by decide
theorem witness_IndexOutOfRangeIsIllegal : 14 ≤ (14 : Nibble).toNat ∧ 8 ≤ (8 : Nibble).toNat := by decide
theorem witness_NopChangesNothing : fieldOp 0x00000001 = 0x0 ∧ (0x00000001 : CmdWord) ≠ 0 := by decide
theorem witness_ClrClearsDiagnostics : fieldOp 0xE1000000 = 0xE := rfl
theorem witness_ClrClearsDiagnostics_enc :
    exec .clr State.reset = .next State.reset ∧ exec .enc State.reset = .next State.reset.encodeBlock := ⟨rfl, rfl⟩
theorem witness_EncScaleIsLeastExponent_reached : State.reset.covers State.reset.coef[0] 0 := by
  unfold State.covers; decide +kernel
/-- V-SCL-OVF. -/
theorem witness_EncScaleIsLeastExponent_unreachable : ∀ e', e' ≤ 15 →
    ¬(before [⟨-32768, -32768⟩] 0 32767 32767 (Vector.replicate 14 (-32768))).covers ⟨-32768, -32768⟩ e' := by
  intro e' he h
  have h0 := (h 0).1
  have hr : (before [⟨-32768, -32768⟩] 0 32767 32767 (Vector.replicate 14 (-32768))).rangeResidual ⟨-32768, -32768⟩ 0 =
      1015775 := by decide +kernel
  have hp : (2 : Int) ^ (e' + 3) ≤ 2 ^ (15 + 3) := pow_le_pow_right₀ (by omega) (by omega)
  omega
theorem witness_EncChoosesLeastMagnitude : (15 : Fin 16).val ≤ (15 : Nibble).toNat := by decide
theorem witness_EncReadsOnlyItsInputs :
    SameEncInputs State.reset { State.reset with out := Vector.replicate 8 1, diag := 1, cerr := true } :=
  ⟨rfl, rfl, rfl, rfl, fun _ _ => rfl⟩
theorem witness_SilenceWithZeroPair : State.reset.nm1 = 0 ∧ State.reset.coef[0] = ⟨0, 0⟩ ∧
    State.reset.sample = Vector.replicate 14 0 := by decide
/-- Zero history, other coefficients in slot 0, and N = 16. -/
theorem witness_SilenceWithZeroPair_anyCoefficients :
    (before [⟨2048, 0⟩] 15 0 0 (Vector.replicate 14 0)).hist1 = 0 ∧
    (before [⟨2048, 0⟩] 15 0 0 (Vector.replicate 14 0)).hist2 = 0 ∧
    (before [⟨2048, 0⟩] 15 0 0 (Vector.replicate 14 0)).sample = Vector.replicate 14 0 := by decide
/-- V-SEL-3. -/
theorem witness_SilenceWithZeroPair_tie :
    (before [⟨0, 0⟩, ⟨2048, 0⟩, ⟨4096, -2048⟩] 2 0 0 (Vector.replicate 14 0)).hist1 = 0 ∧
    (before [⟨0, 0⟩, ⟨2048, 0⟩, ⟨4096, -2048⟩] 2 0 0 (Vector.replicate 14 0)).hist2 = 0 ∧
    (before [⟨0, 0⟩, ⟨2048, 0⟩, ⟨4096, -2048⟩] 2 0 0 (Vector.replicate 14 0)).coef[0] = ⟨0, 0⟩ ∧
    (before [⟨0, 0⟩, ⟨2048, 0⟩, ⟨4096, -2048⟩] 2 0 0 (Vector.replicate 14 0)).sample = Vector.replicate 14 0 := by decide
/-- The state the statement fails in. -/
theorem witness_SilenceCodesForAnyCoefficients :
    (before [⟨2048, 0⟩] 0 0 0 (Vector.replicate 14 0)).hist1 = 0 ∧
    (before [⟨2048, 0⟩] 0 0 0 (Vector.replicate 14 0)).hist2 = 0 ∧
    (before [⟨2048, 0⟩] 0 0 0 (Vector.replicate 14 0)).sample = Vector.replicate 14 0 := by decide
theorem witness_NibbleMaskAndSignExtension : (7 : Nibble).toNat ≤ 7 ∧ 7 < (8 : Nibble).toNat := by decide
theorem witness_NibbleMaskAndSignExtension_range : (-8 : Int) ≤ -8 ∧ (7 : Int) ≤ 7 := by decide
theorem witness_IntermediateRanges : (15 : Nat) ≤ 15 := by decide
theorem witness_ExactCodeReconstruction : -8 ≤ resOf (-7) 0 ∧ resOf (-7) 0 ≤ 7 := by decide
theorem witness_ExactCodeReconstruction_multiple : -8 ≤ resOf 0 1024 ∧ resOf 0 1024 ≤ 7 ∧ errOf 0 1024 % 2048 = 0 := by
  decide
theorem witness_ScaleIsLeastFittingExponent : (scale 262144 0).2 = true := by decide
theorem witness_FoundExponentCoversResiduals : scale (maxOf [7, -8]) (minOf [7, -8]) = (0, false) := by decide
theorem witness_ExtremesMayStartAtZero : (-5 : Int) ≤ -5 ∧ (100 : Int) ≤ 100 := by decide
theorem witness_PackLayout : (15 : Nat) ≤ 15 ∧ (List.replicate 14 (0xF : Nibble)).length = 14 := by decide
theorem witness_UnpackInvertsPack : (List.replicate 14 (0xE : Nibble)).length = 14 := by decide
theorem witness_ElementsAndTheirWriters : (Instr.lds 13 5).wellFormed = true ∧
    exec (.lds 13 5) State.reset = .next (State.reset.writeSample 13 5) := ⟨rfl, rfl⟩
theorem witness_FlagsAreSticky_sovf :
    step { sent [.command 0xE0000000] with sovf := true } = .next State.reset := rfl
theorem witness_FlagsAreSticky_cerr : step { sent [.reset] with cerr := true } = .next State.reset := rfl
theorem witness_FlagsAreReadByRdsAlone : Instr.enc ≠ .rds ∧ exec .enc State.reset = .next State.reset.encodeBlock :=
  ⟨by decide, rfl⟩
theorem witness_OutputsAreReadByTheirReadsAlone : (∀ j, Instr.enc ≠ .rdo j) ∧ (∀ k, Instr.enc ≠ .rdr k) ∧
    Instr.enc ≠ .rdd ∧ exec .enc State.reset = .next State.reset.encodeBlock :=
  ⟨fun _ h => Instr.noConfusion h, fun _ h => Instr.noConfusion h, by decide, rfl⟩
theorem witness_OutputsNeverReachInputs : SameInputs State.reset { State.reset with diag := 1, sovf := true } ∧
    exec .enc State.reset = .next State.reset.encodeBlock := ⟨⟨rfl, rfl, rfl, rfl, rfl⟩, rfl⟩
theorem witness_ReadsAndWritesRepeat_read : (Instr.rdr 13).wellFormed = true ∧ isRead (.rdr 13) = true ∧
    exec (.rdr 13) State.reset = .next (State.reset.respond 0) := ⟨rfl, rfl, rfl⟩
theorem witness_ReadsAndWritesRepeat_write : isRead (.ldn 15) = false ∧ Instr.ldn 15 ≠ .enc ∧
    exec (.ldn 15) State.reset = .next (State.reset.writeNm1 15) := ⟨rfl, by decide, rfl⟩
theorem witness_OneResponsePerLegalRead : ∃ i, decode 0xBD000000 = .ok i ∧ isRead i = true := ⟨.rdr 13, rfl, rfl⟩
theorem witness_OneResponsePerLegalRead_none : ¬∃ i, decode 0xBE000000 = .ok i ∧ isRead i = true := by
  rintro ⟨i, h, _⟩; cases h
theorem witness_ResponseCountIsKept : ResponsesMatchReads [.command 0xD0000000] (sent [.command 0xD0000000]) ∧
    step (sent [.command 0xD0000000]) = .next (State.reset.respond 0) := ⟨⟨[], rfl, rfl⟩, rfl⟩
theorem witness_CerrRecordIsKept : CerrMarksIllegalWords [.command 0xF0000000] (sent [.command 0xF0000000]) ∧
    step (sent [.command 0xF0000000]) = .next State.reset.illegal := ⟨⟨[], rfl, rfl⟩, rfl⟩
theorem witness_HistoryContinuityIsKept : HistoryIsReconstruction [.command 0x70000000] (sent [.command 0x70000000]) ∧
    step (sent [.command 0x70000000]) = .next State.reset.encodeBlock := ⟨⟨[], rfl, fun _ => ⟨rfl, rfl⟩⟩, rfl⟩
theorem witness_AssembledWordsAreLegal : assembleLine "RDB".toList =
    some [0x80000000, 0x81000000, 0x82000000, 0x83000000, 0x84000000, 0x85000000, 0x86000000, 0x87000000] := by
  decide +kernel
theorem witness_PseudoInstructionsExpand :
    (15 : Fin 16).val = (15 : Nibble).toNat ∧ (0 : Fin 16).val ≠ (15 : Nibble).toNat := by decide
theorem witness_EncodeCallResponds : 1 ≤ [(⟨4096, -2048⟩ : CoefPair)].length ∧
    (List.replicate 16 (⟨0, 0⟩ : CoefPair)).length ≤ 16 ∧ (0 : Fin 16).val < [(⟨4096, -2048⟩ : CoefPair)].length ∧
    [(⟨4096, -2048⟩ : CoefPair)].length ≤ (1 : Fin 16).val := by decide

end Sys2Proof.Tests
end

section
/-! PROOFS. The family of `10_state.md`: the history invariant, what the commands write, what they read, the flags, reset. -/

namespace Sys2Proof

/-- A row of the opcode map accepts no fields but those of its command's own word: what the command takes no operand from
is 0 (`30_encoding.md` R68). -/
theorem encode_of_decodeFields {op idx : Nibble} {imm : Half} {i : Instr} (h : decodeFields op idx imm = .ok i) :
    encode i = packFields op idx imm := by
  rcases nibble_cases op with rfl | rfl | rfl | rfl | rfl | rfl | rfl | rfl | rfl | rfl | rfl | rfl | rfl | rfl | rfl |
    rfl
  all_goals simp only [decodeFields, BitVec.ofNat_eq_ofNat, BitVec.reduceToNat, withoutIdx_eq_ok, withoutImm_eq_ok,
    withIndex_eq_ok, Except.ok.injEq, reduceCtorEq] at h
  all_goals
    casesm* _ ∧ _, _ = i, _ = 0#_
    rfl

/-- An accepted word is the word of its command (`30_encoding.md` R68). -/
theorem encode_of_decode {w : CmdWord} {i : Instr} (h : decode w = .ok i) : encode i = w := by
  obtain ⟨hzero, hrow⟩ := decode_ok_fields h
  rw [encode_of_decodeFields hrow, packFields_fields w hzero]

end Sys2Proof

namespace Sys2Proof.Machine

/-! ## The commands with an index, by what it names -/

section
variable (s : State)

theorem exec_lds_of_some {k : Nibble} {m : Fin 14} (v : Half) (hk : sampleIndex k = some m) :
    exec (.lds k v) s = .next (s.writeSample m v) := by simp [exec, execLds, hk]

theorem exec_lds_of_none {k : Nibble} (v : Half) (hk : sampleIndex k = none) :
    exec (.lds k v) s = .next s.illegal := by simp [exec, execLds, hk]

theorem exec_rdo_of_some {j : Nibble} {m : Fin 8} (hj : byteIndex j = some m) :
    exec (.rdo j) s = .next (s.respond (zextByte (s.outAt m))) := by simp [exec, execRdo, hj]

theorem exec_rdo_of_none {j : Nibble} (hj : byteIndex j = none) :
    exec (.rdo j) s = .next s.illegal := by simp [exec, execRdo, hj]

theorem exec_rdr_of_some {k : Nibble} {m : Fin 14} (hk : sampleIndex k = some m) :
    exec (.rdr k) s = .next (s.respond (sextHalf (s.reconAt m))) := by simp [exec, execRdr, hk]

theorem exec_rdr_of_none {k : Nibble} (hk : sampleIndex k = none) :
    exec (.rdr k) s = .next s.illegal := by simp [exec, execRdr, hk]

end

/-! ## Every command and every event keeps the channel -/

/-- No command touches the words still to be taken (`20_memory.md` R48). -/
theorem exec_pending {i : Instr} {s t : State} (h : exec i s = .next t) : t.pending = s.pending := by
  rcases exec_cases h with ⟨-, rfl⟩ | ⟨n, -, rfl⟩ | ⟨c, v, -, rfl⟩ | ⟨c, v, -, rfl⟩ | ⟨v, -, rfl⟩ | ⟨v, -, rfl⟩ |
    ⟨k, v, m, -, -, rfl⟩ | ⟨-, rfl⟩ | ⟨-, v, rfl⟩ | ⟨-, rfl⟩ | ⟨-, rfl⟩ <;> simp

/-- No event touches the events still to be taken. -/
theorem runEvent_pending {e : HostEvent} {s t : State} (h : runEvent e s = .next t) : t.pending = s.pending := by
  cases e with
  | reset => rw [← Host.Outcome.next.inj h, State.applyReset_pending]
  | command w =>
    rcases runWord_cases h with ⟨i, -, hx⟩ | ⟨-, rfl⟩
    · exact exec_pending hx
    · rfl

/-- A step is idle, or it takes the oldest event and runs it on the rest. -/
theorem step_takes_event {s t : State} (h : step s = .next t) :
    (s.pending = [] ∧ t = s) ∨
      ∃ e, s.pending = e :: t.pending ∧ runEvent e { s with pending := t.pending } = .next t := by
  have take : ∀ e rest, s.pending = e :: rest → runEvent e { s with pending := rest } = .next t →
      ∃ e, s.pending = e :: t.pending ∧ runEvent e { s with pending := t.pending } = .next t := by
    intro e rest hp hr
    obtain rfl : t.pending = rest := runEvent_pending hr
    exact ⟨e, hp, hr⟩
  rcases step_cases h with hidle | ⟨rest, hp, rfl⟩ | ⟨w, rest, hp, hw⟩
  · exact .inl hidle
  · exact .inr (take .reset rest hp rfl)
  · exact .inr (take (.command w) rest hp hw)

/-- A record of the events taken so far is kept by every step, if it does not look at the events still pending and every
event extends it: the induction step of all invariants over what the host has sent. -/
theorem step_keeps_record {P : List HostEvent → State → Prop}
    (blind : ∀ done s p, P done s → P done { s with pending := p })
    (extend : ∀ done e s t, P done s → runEvent e s = .next t → P (done ++ [e]) t)
    {sent : List HostEvent} {s t : State} (inv : ∃ done, done ++ s.pending = sent ∧ P done s)
    (h : step s = .next t) : ∃ done, done ++ t.pending = sent ∧ P done t := by
  obtain ⟨done, hsent, hP⟩ := inv
  rcases step_takes_event h with ⟨-, rfl⟩ | ⟨e, hp, hr⟩
  · exact ⟨done, hsent, hP⟩
  · exact ⟨done ++ [e], by simpa [hp] using hsent, extend done e _ t (blind done s _ hP) hr⟩

/-! ## The history -/

/-- What `ENC` leaves as the history is the last two reconstructed samples (`10_state.md` R22). -/
theorem State.encodeBlock_history (s : State) :
    s.encodeBlock.hist1 = s.encodeBlock.recon[13] ∧ s.encodeBlock.hist2 = s.encodeBlock.recon[12] := by
  have hist : s.finalPass.hist1 = s.finalPass.recon.getD 13 0 ∧ s.finalPass.hist2 = s.finalPass.recon.getD 12 0 := by
    have := quantPass_history s.chosen.a1.toInt s.chosen.a2.toInt s.blockScale.1 s.hist1.toInt s.hist2.toInt s.samples
    rwa [State.samples_length] at this
  constructor
  · exact (congrArg _ hist.1).trans (reconBuffer_getElem _ 13).symm
  · exact (congrArg _ hist.2).trans (reconBuffer_getElem _ 12).symm

/-- A command is `ENC`, a load of the history, or leaves the history and `RECON` alone (`10_state.md` R20). -/
theorem exec_history_cases {i : Instr} {s t : State} (h : exec i s = .next t) :
    (i = .enc ∧ t = s.encodeBlock) ∨ (∃ v, i = .ldh1 v ∨ i = .ldh2 v) ∨
      (i ≠ .enc ∧ t.hist1 = s.hist1 ∧ t.hist2 = s.hist2 ∧ t.recon = s.recon) := by
  rcases exec_cases h with ⟨rfl, rfl⟩ | ⟨n, rfl, rfl⟩ | ⟨c, v, rfl, rfl⟩ | ⟨c, v, rfl, rfl⟩ | ⟨v, rfl, -⟩ |
    ⟨v, rfl, -⟩ | ⟨k, v, m, rfl, -, rfl⟩ | henc | ⟨hread, v, rfl⟩ | ⟨rfl, rfl⟩ | ⟨hill, rfl⟩
  · exact .inr (.inr ⟨nofun, rfl, rfl, rfl⟩)
  · exact .inr (.inr ⟨nofun, rfl, rfl, rfl⟩)
  · exact .inr (.inr ⟨nofun, rfl, rfl, rfl⟩)
  · exact .inr (.inr ⟨nofun, rfl, rfl, rfl⟩)
  · exact .inr (.inl ⟨v, .inl rfl⟩)
  · exact .inr (.inl ⟨v, .inr rfl⟩)
  · exact .inr (.inr ⟨nofun, rfl, rfl, rfl⟩)
  · exact .inl henc
  · exact .inr (.inr ⟨(by rintro rfl; cases hread), rfl, rfl, rfl⟩)
  · exact .inr (.inr ⟨nofun, rfl, rfl, rfl⟩)
  · exact .inr (.inr ⟨(by rintro rfl; cases hill), rfl, rfl, rfl⟩)

/-- The flag the host's own history writes leave, at a command the decoder accepts: `ENC` lowers it, `LDH1` and `LDH2`
raise it, every other command keeps it. -/
theorem hostHistoryAfter_eq_false {before : Bool} {w : CmdWord} {i : Instr} (hd : decode w = .ok i) :
    hostHistoryAfter before (.command w) = false ↔
      i = .enc ∨ (before = false ∧ ∀ v, i ≠ .ldh1 v ∧ i ≠ .ldh2 v) := by
  cases i <;> simp [hostHistoryAfter, hd]

/-- An illegal word is no write of the history by the host. -/
theorem hostHistoryAfter_illegal {before : Bool} {w : CmdWord} (h : isIllegal w = true) :
    hostHistoryAfter before (.command w) = before := by
  obtain ⟨e, hd⟩ := isIllegal_eq_true.1 h
  simp [hostHistoryAfter, hd]

/-- The record of the host's history writes, one event later. -/
theorem hostWroteHistory_append (done : List HostEvent) (e : HostEvent) :
    hostWroteHistory (done ++ [e]) = hostHistoryAfter (hostWroteHistory done) e := by
  simp [hostWroteHistory]

/-- The history is the last two reconstructed samples unless `wrote` says that the host has written it (R22). -/
def HistoryFollows (wrote : Bool) (s : State) : Prop :=
  wrote = false → s.hist1 = s.recon[13] ∧ s.hist2 = s.recon[12]

/-- Every event keeps the invariant: `RESET` zeroes both sides, `ENC` writes both sides, a load of the history is recorded,
and everything else leaves both sides alone. -/
theorem runEvent_historyFollows {wrote : Bool} {e : HostEvent} {s t : State} (inv : HistoryFollows wrote s)
    (h : runEvent e s = .next t) : HistoryFollows (hostHistoryAfter wrote e) t := by
  cases e with
  | reset =>
    obtain rfl := Host.Outcome.next.inj h
    exact fun _ => ⟨rfl, rfl⟩
  | command w =>
    rcases runWord_cases h with ⟨i, hd, hx⟩ | ⟨hill, rfl⟩
    · intro hw
      rcases exec_history_cases hx with ⟨-, rfl⟩ | ⟨v, hi⟩ | ⟨hne, h1, h2, hr⟩
      · exact s.encodeBlock_history
      · rcases hi with rfl | rfl <;> simp [hostHistoryAfter_eq_false hd] at hw
      · have hbefore : wrote = false := (((hostHistoryAfter_eq_false hd).1 hw).resolve_left hne).1
        rw [h1, h2, hr]
        exact inv hbefore
    · rw [hostHistoryAfter_illegal hill]
      exact inv

/-- Settles O55: the record of the events taken is kept by every step, since every event keeps the history invariant. -/
theorem historyContinuityIsKept : Obligations.HistoryContinuityIsKept := by
  intro sent s t inv h
  refine step_keeps_record (P := fun done s => HistoryFollows (hostWroteHistory done) s) ?_ ?_ inv h
  · exact fun _ _ _ hP => hP
  · intro done e s t hP hr
    rw [hostWroteHistory_append]
    exact runEvent_historyFollows hP hr

/-! ## What the commands write -/

/-- Settles O46, command by command: what the command writes is the one clause its case has to answer. -/
theorem elementsAndTheirWriters : Obligations.ElementsAndTheirWriters := by
  intro i s t hwf h
  rcases exec_cases h with ⟨rfl, rfl⟩ | ⟨n, rfl, rfl⟩ | ⟨c, v, rfl, rfl⟩ | ⟨c, v, rfl, rfl⟩ | ⟨v, rfl, rfl⟩ |
    ⟨v, rfl, rfl⟩ | ⟨k, v, m, rfl, -, rfl⟩ | ⟨rfl, rfl⟩ | ⟨hread, v, rfl⟩ | ⟨rfl, rfl⟩ | ⟨hill, rfl⟩
  · simp -- `NOP`
  · simp -- `LDN`
  · simp -- `LDA1`
  · simp -- `LDA2`
  · simp -- `LDH1`
  · simp -- `LDH2`
  · simp -- `LDS`
  · simp +contextual -- `ENC`
  · simp [hread] -- the read commands
  · simp -- `CLR`
  · simp [hwf] at hill -- no well-formed command

/-! ## The flags -/

/-- `CLR` is the only command that clears `SOVF`, and none clears `CERR` (`10_state.md` R26). -/
theorem exec_flags_sticky {i : Instr} {s t : State} (h : exec i s = .next t) :
    (s.sovf = true → t.sovf = true ∨ i = .clr) ∧ (s.cerr = true → t.cerr = true) := by
  rcases exec_cases h with ⟨-, rfl⟩ | ⟨n, -, rfl⟩ | ⟨c, v, -, rfl⟩ | ⟨c, v, -, rfl⟩ | ⟨v, -, rfl⟩ |
    ⟨v, -, rfl⟩ | ⟨k, v, m, -, -, rfl⟩ | ⟨-, rfl⟩ | ⟨-, v, rfl⟩ | ⟨rfl, rfl⟩ | ⟨-, rfl⟩
  all_goals exact ⟨fun hs => by simp [hs], by simp⟩

/-- Settles O47: an idle step changes nothing, an illegal word clears no flag, and of the legal words that of `CLR` alone
clears `SOVF`. -/
theorem flagsAreSticky : Obligations.FlagsAreSticky := by
  intro s t h
  rcases step_cases h with ⟨-, rfl⟩ | ⟨rest, hp, -⟩ | ⟨w, rest, hp, hw⟩
  · constructor <;> intro hset hclear <;> simp [hset] at hclear
  · exact ⟨fun _ _ => ⟨rest, .inl hp⟩, fun _ _ => ⟨rest, hp⟩⟩
  · rcases runWord_cases hw with ⟨i, hd, hx⟩ | ⟨-, rfl⟩
    · obtain ⟨hsovf, hcerr⟩ := exec_flags_sticky hx
      constructor
      · intro hset hclear
        obtain rfl : i = .clr := (hsovf hset).resolve_left (by simp [hclear])
        obtain rfl : 0xE0000000 = w := encode_of_decode hd
        exact ⟨rest, .inr hp⟩
      · intro hset hclear
        simp [hcerr hset] at hclear
    · constructor <;> intro hset hclear <;> simp [hset] at hclear

/-! ## What `ENC` reads -/

section
variable {s s' : State}

/-- A state agrees with another on the inputs of `ENC` where it agrees on all inputs. -/
theorem SameInputs.sameEncInputs (h : SameInputs s s') : SameEncInputs s s' := by
  obtain ⟨h1, h2, hcoef, hnm1, hsample⟩ := h
  exact ⟨h1, h2, hnm1, hsample, fun i _ => by rw [hcoef]⟩

/-- A pair replays alike from the same history over the same block (`41_select.md` R100). -/
theorem SameEncInputs.replay_eq (h : SameEncInputs s s') (p : CoefPair) : s.replay p = s'.replay p := by
  obtain ⟨h1, h2, -, hsample, -⟩ := h
  simp only [State.replay, State.samples, h1, h2, hsample]

/-- A candidate's slot holds the same pair. -/
theorem SameEncInputs.coefAt_eq (h : SameEncInputs s s') {i : Nibble} (hi : i.toNat ≤ s.nm1.toNat) :
    s.coefAt i = s'.coefAt i := by
  obtain ⟨-, -, -, -, hcoef⟩ := h
  exact hcoef ⟨i.toNat, i.isLt⟩ hi

/-- The candidates' accumulators agree: the slots at `N` and above are not read (R101). -/
theorem SameEncInputs.accs_eq (h : SameEncInputs s s') : s.accs = s'.accs := by
  have hacc : s.accOf = s'.accOf := funext fun p => congrArg List.sum (h.replay_eq p)
  obtain ⟨-, -, hnm1, -, hcoef⟩ := h
  have hcount : s.candidateCount = s'.candidateCount := by simp only [State.candidateCount, hnm1]
  have htake : s.coef.toList.take s.candidateCount = s'.coef.toList.take s.candidateCount := by
    apply List.ext_getElem (by simp)
    intro k hk _
    have hk : k < s.candidateCount ∧ k < 16 := by simpa using hk
    simpa using hcoef ⟨k, hk.2⟩ (Nat.le_of_lt_succ hk.1)
  rw [State.accs, State.accs, htake, hacc, hcount]

/-- The selector chooses the same index (R102). -/
theorem SameEncInputs.select_eq (h : SameEncInputs s s') : s.select = s'.select := by
  rw [State.select, State.select, h.accs_eq]

/-- The chosen pair is the same: the index chosen is a candidate's. -/
theorem SameEncInputs.chosen_eq (h : SameEncInputs s s') : s.chosen = s'.chosen := by
  rw [State.chosen, State.chosen, h.coefAt_eq s.select_le, h.select_eq]

/-- The scale is the same (`42_scale.md` R110 to R112). -/
theorem SameEncInputs.blockScale_eq (h : SameEncInputs s s') : s.blockScale = s'.blockScale := by
  have hrange : s.rangePass s.chosen = s'.rangePass s'.chosen := by
    rw [State.rangePass, State.rangePass, h.replay_eq, h.chosen_eq]
  rw [State.blockScale, State.blockScale, State.scaleFor, State.scaleFor, hrange]

/-- The final pass is the same (`43_quantize.md` R124). -/
theorem SameEncInputs.finalPass_eq (h : SameEncInputs s s') : s.finalPass = s'.finalPass := by
  have hpair := h.chosen_eq
  have hscale := h.blockScale_eq
  obtain ⟨h1, h2, -, hsample, -⟩ := h
  simp only [State.finalPass, State.quantize, State.samples, hpair, hscale, h1, h2, hsample]

/-- The encoded block is the same. -/
theorem SameEncInputs.encodeBlock_out_eq (h : SameEncInputs s s') : s.encodeBlock.out = s'.encodeBlock.out := by
  rw [State.encodeBlock_out, State.encodeBlock_out, h.select_eq, h.blockScale_eq, h.finalPass_eq]

end

/-- Settles O31, stage by stage: selector, scale and final pass agree. -/
theorem encReadsOnlyItsInputs : Obligations.EncReadsOnlyItsInputs := by
  intro s s' h
  refine ⟨_, _, rfl, rfl, h.encodeBlock_out_eq, ?_, ?_, ?_⟩
  all_goals simp only [State.encodeBlock_recon, State.encodeBlock_hist1, State.encodeBlock_hist2, h.finalPass_eq]

/-! ## What every command reads -/

/-- The two states agree on what the command answers from: the outputs, diagnostics and flags that a read command names
(`10_state.md` R26, R28, R32). -/
structure SameAnswerSource (i : Instr) (s s' : State) : Prop where
  rdo : (∃ j, i = .rdo j) → s.out = s'.out
  rdr : (∃ k, i = .rdr k) → s.recon = s'.recon
  rdd : i = .rdd → s.diag = s'.diag
  rds : i = .rds → s.sovf = s'.sovf ∧ s.cerr = s'.cerr

/-- What two runs of a command from states `s`, `s'` with the same inputs have in common at their ends `t`, `t'`: the
inputs; every other element that was the same before; and the responses, if what the command answers from was the same. -/
structure RunsAlike (i : Instr) (s s' t t' : State) : Prop where
  inputs : SameInputs t t'
  out : s.out = s'.out → t.out = t'.out
  recon : s.recon = s'.recon → t.recon = t'.recon
  diag : s.diag = s'.diag → t.diag = t'.diag
  sovf : s.sovf = s'.sovf → t.sovf = t'.sovf
  cerr : s.cerr = s'.cerr → t.cerr = t'.cerr
  pending : s.pending = s'.pending → t.pending = t'.pending
  responses : s.responses = s'.responses → SameAnswerSource i s s' → t.responses = t'.responses

section
variable {s s' : State} {i : Instr}

/-- A write of inputs runs alike if it leaves the same inputs and keeps every other element. -/
theorem RunsAlike.of_inputs {t t' : State} (hin : SameInputs t t')
    (ht : { s with hist1 := t.hist1, hist2 := t.hist2, coef := t.coef, nm1 := t.nm1, sample := t.sample } = t)
    (ht' : { s' with
      hist1 := t'.hist1, hist2 := t'.hist2, coef := t'.coef, nm1 := t'.nm1, sample := t'.sample } = t') :
    RunsAlike i s s' t t' := by
  rw [← ht, ← ht']
  exact ⟨hin, id, id, id, id, id, id, fun h _ => h⟩

/-- A response runs alike if its value comes from what the command answers from. -/
theorem RunsAlike.respond (hin : SameInputs s s') {v v' : RspWord} (hv : SameAnswerSource i s s' → v = v') :
    RunsAlike i s s' (s.respond v) (s'.respond v') :=
  ⟨hin, id, id, id, id, id, id, fun hr ha => by simp [hr, hv ha]⟩

/-- An ill-formed command runs alike: it records `CERR` and nothing else. -/
theorem RunsAlike.illegal (hin : SameInputs s s') : RunsAlike i s s' s.illegal s'.illegal :=
  ⟨hin, id, id, id, id, fun _ => rfl, id, fun hr _ => hr⟩

/-- `ENC` runs alike: what it writes to the outputs comes from the inputs, and what it adds to `DIAG` and `SOVF` too. -/
theorem RunsAlike.encodeBlock (hin : SameInputs s s') : RunsAlike i s s' s.encodeBlock s'.encodeBlock := by
  have henc := hin.sameEncInputs
  obtain ⟨-, -, hcoef, hnm1, hsample⟩ := hin
  constructor
  case inputs => simp [SameInputs, henc.finalPass_eq, hcoef, hnm1, hsample]
  case out => exact fun _ => henc.encodeBlock_out_eq
  case recon => simp [henc.finalPass_eq]
  case diag => intro hd; simp [hd, henc.finalPass_eq]
  case sovf => intro hs; simp [hs, henc.blockScale_eq]
  case cerr => simp
  case pending => simp
  case responses => intro hr _; simpa using hr

/-- From states with the same inputs every command runs alike (`10_state.md` R23, R26, R28). -/
theorem exec_runsAlike (i : Instr) (h : SameInputs s s') :
    ∃ t t', exec i s = .next t ∧ exec i s' = .next t' ∧ RunsAlike i s s' t t' := by
  have ⟨h1, h2, hcoef, hnm1, hsample⟩ := h
  cases i with
  | nop => exact ⟨_, _, rfl, rfl, .of_inputs h rfl rfl⟩
  | ldn n => exact ⟨_, _, rfl, rfl, .of_inputs ⟨h1, h2, hcoef, rfl, hsample⟩ rfl rfl⟩
  | lda1 c v =>
    exact ⟨_, _, rfl, rfl, .of_inputs ⟨h1, h2, by simp [State.coefAt, hcoef], hnm1, hsample⟩ rfl rfl⟩
  | lda2 c v =>
    exact ⟨_, _, rfl, rfl, .of_inputs ⟨h1, h2, by simp [State.coefAt, hcoef], hnm1, hsample⟩ rfl rfl⟩
  | ldh1 v => exact ⟨_, _, rfl, rfl, .of_inputs ⟨rfl, h2, hcoef, hnm1, hsample⟩ rfl rfl⟩
  | ldh2 v => exact ⟨_, _, rfl, rfl, .of_inputs ⟨h1, rfl, hcoef, hnm1, hsample⟩ rfl rfl⟩
  | lds k v =>
    cases hk : sampleIndex k with
    | some m =>
      exact ⟨_, _, exec_lds_of_some s v hk, exec_lds_of_some s' v hk,
        .of_inputs ⟨h1, h2, hcoef, hnm1, by simp [hsample]⟩ rfl rfl⟩
    | none => exact ⟨_, _, exec_lds_of_none s v hk, exec_lds_of_none s' v hk, .illegal h⟩
  | enc => exact ⟨_, _, rfl, rfl, .encodeBlock h⟩
  | rdo j =>
    cases hj : byteIndex j with
    | some m =>
      exact ⟨_, _, exec_rdo_of_some s hj, exec_rdo_of_some s' hj,
        .respond h fun ha => by rw [State.outAt, State.outAt, ha.rdo ⟨j, rfl⟩]⟩
    | none => exact ⟨_, _, exec_rdo_of_none s hj, exec_rdo_of_none s' hj, .illegal h⟩
  | rdh1 => exact ⟨_, _, rfl, rfl, .respond h fun _ => by rw [h1]⟩
  | rdh2 => exact ⟨_, _, rfl, rfl, .respond h fun _ => by rw [h2]⟩
  | rdr k =>
    cases hk : sampleIndex k with
    | some m =>
      exact ⟨_, _, exec_rdr_of_some s hk, exec_rdr_of_some s' hk,
        .respond h fun ha => by rw [State.reconAt, State.reconAt, ha.rdr ⟨k, rfl⟩]⟩
    | none => exact ⟨_, _, exec_rdr_of_none s hk, exec_rdr_of_none s' hk, .illegal h⟩
  | rdd => exact ⟨_, _, rfl, rfl, .respond h fun ha => ha.rdd rfl⟩
  | rds => exact ⟨_, _, rfl, rfl, .respond h fun ha => by
      obtain ⟨hsovf, hcerr⟩ := ha.rds rfl
      rw [State.statusWord, State.statusWord, hsovf, hcerr]⟩
  | clr => exact ⟨_, _, rfl, rfl, h, id, id, fun _ => rfl, fun _ => rfl, id, id, fun hr _ => hr⟩

/-- The same, from a run that is given. -/
theorem exec_runsAlike_of_next {t : State} (hx : exec i s = .next t) (h : SameInputs s s') :
    ∃ t', exec i s' = .next t' ∧ RunsAlike i s s' t t' := by
  obtain ⟨_, t', hs, hs', halike⟩ := exec_runsAlike i h
  obtain rfl := Host.Outcome.next.inj (hs.symm.trans hx)
  exact ⟨t', hs', halike⟩

/-- Where what the command answers from was the same, the two ends differ in outputs, diagnostics and flags alone. -/
theorem RunsAlike.eq_overwrite {t t' : State} (h : RunsAlike i s s' t t') (hpending : s.pending = s'.pending)
    (hresponses : s.responses = s'.responses) (hsource : SameAnswerSource i s s') :
    { t' with out := t.out, recon := t.recon, diag := t.diag, sovf := t.sovf, cerr := t.cerr } = t := by
  obtain ⟨h1, h2, hcoef, hnm1, hsample⟩ := h.inputs
  rw [← h1, ← h2, ← hcoef, ← hnm1, ← hsample, ← h.pending hpending, ← h.responses hresponses hsource]

end

/-- Settles O50: the inputs are the first thing two runs have in common. -/
theorem outputsNeverReachInputs : Obligations.OutputsNeverReachInputs := by
  intro i s s' t h hx
  obtain ⟨t', hx', halike⟩ := exec_runsAlike_of_next hx h
  exact ⟨t', hx', halike.inputs⟩

/-- Settles O48: the runs are alike, and no command but `RDS` answers from the flags. -/
theorem flagsAreReadByRdsAlone : Obligations.FlagsAreReadByRdsAlone := by
  intro i s t b c hi hx
  obtain ⟨t', hx', halike⟩ :=
    exec_runsAlike_of_next (s' := { s with sovf := b, cerr := c }) hx ⟨rfl, rfl, rfl, rfl, rfl⟩
  have heq := halike.eq_overwrite rfl rfl ⟨fun _ => rfl, fun _ => rfl, fun _ => rfl, fun h => absurd h hi⟩
  rw [halike.out rfl, halike.recon rfl, halike.diag rfl] at heq
  exact ⟨t', hx', heq⟩

/-- Settles O49: the runs are alike, and no command but `RDO`, `RDR` or `RDD` answers from the output in question. -/
theorem outputsAreReadByTheirReadsAlone : Obligations.OutputsAreReadByTheirReadsAlone := by
  refine ⟨fun i s t b hi hx => ?_, fun i s t y hi hx => ?_, fun i s t d hi hx => ?_⟩
  · obtain ⟨t', hx', halike⟩ := exec_runsAlike_of_next (s' := { s with out := b }) hx ⟨rfl, rfl, rfl, rfl, rfl⟩
    have heq := halike.eq_overwrite rfl rfl
      ⟨fun ⟨j, h⟩ => absurd h (hi j), fun _ => rfl, fun _ => rfl, fun _ => ⟨rfl, rfl⟩⟩
    rw [halike.recon rfl, halike.diag rfl, halike.sovf rfl, halike.cerr rfl] at heq
    exact ⟨t', hx', heq⟩
  · obtain ⟨t', hx', halike⟩ := exec_runsAlike_of_next (s' := { s with recon := y }) hx ⟨rfl, rfl, rfl, rfl, rfl⟩
    have heq := halike.eq_overwrite rfl rfl
      ⟨fun _ => rfl, fun ⟨k, h⟩ => absurd h (hi k), fun _ => rfl, fun _ => ⟨rfl, rfl⟩⟩
    rw [halike.out rfl, halike.diag rfl, halike.sovf rfl, halike.cerr rfl] at heq
    exact ⟨t', hx', heq⟩
  · obtain ⟨t', hx', halike⟩ := exec_runsAlike_of_next (s' := { s with diag := d }) hx ⟨rfl, rfl, rfl, rfl, rfl⟩
    have heq := halike.eq_overwrite rfl rfl
      ⟨fun _ => rfl, fun _ => rfl, fun h => absurd h hi, fun _ => ⟨rfl, rfl⟩⟩
    rw [halike.out rfl, halike.recon rfl, halike.sovf rfl, halike.cerr rfl] at heq
    exact ⟨t', hx', heq⟩

/-! ## Reset -/

/-- Settles O9: every entry of a replicated vector is the entry replicated. -/
theorem resetStateValues : Obligations.ResetStateValues := by
  refine ⟨rfl, rfl, fun i => ?_, rfl, rfl, fun k => ?_, fun j => ?_, fun k => ?_, rfl, rfl, rfl⟩ <;>
    simp [State.reset]

/-- Settles O8: the event puts every element at its value in `State.reset`. -/
theorem resetEventZeroesEveryElement : Obligations.ResetEventZeroesEveryElement := by
  intro rest s hp
  obtain ⟨h1, h2, hcoef, hnm1, -, hsample, hout, hrecon, hdiag, hsovf, hcerr⟩ := resetStateValues
  have hstep : step s = .next ({ s with pending := rest } : State).applyReset := by rw [step_eq, hp]
  exact ⟨_, hstep, h1, h2, hcoef, hnm1, hsample, hout, hrecon, hdiag, hsovf, hcerr, rfl, rfl⟩

/-- Settles O56: with nothing taken yet, no response has left, no illegal word has come, and both sides of the history
invariant are zero. -/
theorem resetMeetsInvariants : Obligations.ResetMeetsInvariants := by
  have count : ∀ sent, ResponsesMatchReads sent { State.reset with pending := sent } := fun _ => ⟨[], rfl, rfl⟩
  have cerr : ∀ sent, CerrMarksIllegalWords sent { State.reset with pending := sent } := fun _ => ⟨[], rfl, rfl⟩
  have hist : ∀ sent, HistoryIsReconstruction sent { State.reset with pending := sent } :=
    fun _ => ⟨[], rfl, fun _ => ⟨rfl, rfl⟩⟩
  exact fun sent => ⟨count sent, cerr sent, hist sent, count [], cerr [], hist []⟩

end Sys2Proof.Machine
end

section
/-! PROOFS. The family of `20_memory.md`: which index names an entry, commands sent twice, and the responses that have left. -/

namespace Sys2Proof

/-- The decoder accepts no index that names nothing (`30_encoding.md` R69 e, f). -/
theorem wellFormed_of_decode {w : CmdWord} {i : Instr} (h : decode w = .ok i) : i.wellFormed = true := by
  rw [← encode_of_decode h] at h
  cases i with
  | lds | rdo | rdr =>
    rw [encode, decode_packFields _ _ _ (by decide)] at h
    exact decide_eq_true (withIndex_eq_ok.1 h).1
  | nop | ldn | lda1 | lda2 | ldh1 | ldh2 | enc | rdh1 | rdh2 | rdd | rds | clr => rfl

end Sys2Proof

namespace Sys2Proof.Machine

/-! ## One command, one step -/

/-- Settles O6: a step on a pending word runs the word, and a word the decoder accepts is its command. -/
theorem stepRunsDecodedCommand : Obligations.StepRunsDecodedCommand := by
  intro w i rest s hp hd
  have hstep : step s = runWord w { s with pending := rest } := by rw [step_eq, hp]
  rw [hstep, runWord, hd]

/-! ## An index that names nothing -/

/-- Settles O23: from 14 on no sample index is found, from 8 on no byte index, and the command is illegal. -/
theorem indexOutOfRangeIsIllegal : Obligations.IndexOutOfRangeIsIllegal :=
  ⟨fun _ v s h => exec_lds_of_none s v (sampleIndex_eq_none.2 h),
    fun _ s h => exec_rdr_of_none s (sampleIndex_eq_none.2 h),
    fun _ s h => exec_rdo_of_none s (byteIndex_eq_none.2 h)⟩

/-- An ill-formed command records `CERR` and does nothing else (`20_memory.md` R44). -/
theorem exec_of_not_wellFormed {i : Instr} (h : i.wellFormed = false) (s : State) : exec i s = .next s.illegal := by
  obtain ⟨lds, rdr, rdo⟩ := indexOutOfRangeIsIllegal
  cases i with
  | lds k v => exact lds k v s (Nat.le_of_not_lt (of_decide_eq_false h))
  | rdr k => exact rdr k s (Nat.le_of_not_lt (of_decide_eq_false h))
  | rdo j => exact rdo j s (Nat.le_of_not_lt (of_decide_eq_false h))
  | nop | ldn | lda1 | lda2 | ldh1 | ldh2 | enc | rdh1 | rdh2 | rdd | rds | clr => cases h

/-! ## Reads -/

/-- A legal read command sends one response and does nothing else; what it answers comes from the elements, which no
response changes (`20_memory.md` R46). -/
theorem exec_read {i : Instr} (hwf : i.wellFormed = true) (hread : isRead i = true) :
    ∃ answer : State → RspWord, (∀ s, exec i s = .next (s.respond (answer s))) ∧
      ∀ s v, answer (s.respond v) = answer s := by
  cases i with
  | rdo j =>
    have hj : byteIndex j = some ⟨j.toNat, of_decide_eq_true hwf⟩ := byteIndex_eq_some.2 rfl
    exact ⟨_, fun s => exec_rdo_of_some s hj, fun _ _ => rfl⟩
  | rdr k =>
    have hk : sampleIndex k = some ⟨k.toNat, of_decide_eq_true hwf⟩ := sampleIndex_eq_some.2 rfl
    exact ⟨_, fun s => exec_rdr_of_some s hk, fun _ _ => rfl⟩
  | rdh1 => exact ⟨fun s => sextHalf s.hist1, fun _ => rfl, fun _ _ => rfl⟩
  | rdh2 => exact ⟨fun s => sextHalf s.hist2, fun _ => rfl, fun _ _ => rfl⟩
  | rdd => exact ⟨State.diag, fun _ => rfl, fun _ _ => rfl⟩
  | rds => exact ⟨State.statusWord, fun _ => rfl, fun _ _ => rfl⟩
  | nop | ldn | lda1 | lda2 | ldh1 | ldh2 | lds | enc | clr => cases hread

/-! ## Writes -/

section
variable (s : State)

@[simp] theorem State.writeCoefA1_writeCoefA1 (c : Nibble) (v : Half) :
    (s.writeCoefA1 c v).writeCoefA1 c v = s.writeCoefA1 c v := by
  simp [State.writeCoefA1, State.coefAt]

@[simp] theorem State.writeCoefA2_writeCoefA2 (c : Nibble) (v : Half) :
    (s.writeCoefA2 c v).writeCoefA2 c v = s.writeCoefA2 c v := by
  simp [State.writeCoefA2, State.coefAt]

@[simp] theorem State.writeSample_writeSample (k : Fin 14) (v : Half) :
    (s.writeSample k v).writeSample k v = s.writeSample k v := by
  simp [State.writeSample]

end

/-- A command that is neither a read nor `ENC`, sent twice in a row, leaves the state it left once (`20_memory.md` R46). -/
theorem exec_idempotent {i : Instr} {s t : State} (hread : isRead i = false) (henc : i ≠ .enc)
    (h : exec i s = .next t) : exec i t = .next t := by
  rcases exec_cases h with ⟨rfl, rfl⟩ | ⟨n, rfl, rfl⟩ | ⟨c, v, rfl, rfl⟩ | ⟨c, v, rfl, rfl⟩ | ⟨v, rfl, rfl⟩ |
    ⟨v, rfl, rfl⟩ | ⟨k, v, m, rfl, hk, rfl⟩ | ⟨rfl, -⟩ | ⟨hread', -⟩ | ⟨rfl, rfl⟩ | ⟨hill, rfl⟩
  · exact h -- `NOP`
  · rfl -- `LDN`
  · simp [exec, execLda1] -- `LDA1`
  · simp [exec, execLda2] -- `LDA2`
  · simp [exec, execLdh1, State.writeHist1] -- `LDH1`
  · simp [exec, execLdh2, State.writeHist2] -- `LDH2`
  · rw [exec_lds_of_some _ v hk, State.writeSample_writeSample] -- `LDS`
  · exact absurd rfl henc
  · simp [hread] at hread'
  · rfl -- `CLR`
  · exact exec_of_not_wellFormed hill _ -- no well-formed command

/-- A second `ENC` on the silent block of the reset state adds to `DIAG` once more (`20_memory.md` R46). -/
theorem encodeBlock_twice_diag :
    State.reset.encodeBlock.diag = 14 ∧ State.reset.encodeBlock.encodeBlock.diag = 28 := by
  decide +kernel

/-- Settles O51: what a read answers is untouched by its response, every write but `ENC` is idempotent, and `ENC` advances
`DIAG` each time. -/
theorem readsAndWritesRepeat : Obligations.ReadsAndWritesRepeat := by
  refine ⟨?_, fun i s t => exec_idempotent, State.reset, State.reset.encodeBlock, rfl, ?_⟩
  · intro i s t hwf hread h
    obtain ⟨answer, hexec, hsame⟩ := exec_read hwf hread
    obtain rfl := Host.Outcome.next.inj ((hexec s).symm.trans h)
    exact ⟨answer s, rfl, by rw [hexec, hsame]; rfl⟩
  · intro h
    have hdiag := congrArg State.diag (Host.Outcome.next.inj h)
    obtain ⟨honce, htwice⟩ := encodeBlock_twice_diag
    rw [honce, htwice] at hdiag
    exact absurd hdiag (by decide)

/-! ## The responses -/

/-- A legal command that is no read sends no response (`30_encoding.md` R67). -/
theorem exec_responses_of_not_read {i : Instr} {s t : State} (hwf : i.wellFormed = true) (hread : isRead i = false)
    (h : exec i s = .next t) : t.responses = s.responses := by
  obtain ⟨-, -, -, -, -, -, -, -, -, -, -, keeps⟩ := elementsAndTheirWriters i s t hwf h
  exact keeps hread

/-- An accepted word sends a response if its command is a read. -/
theorem sendsResponse_of_decode {w : CmdWord} {i : Instr} (h : decode w = .ok i) :
    sendsResponse (.command w) = isRead i := by
  simp [sendsResponse, h]

/-- An illegal word sends no response. -/
theorem sendsResponse_of_illegal {w : CmdWord} (h : isIllegal w = true) : sendsResponse (.command w) = false := by
  obtain ⟨e, hd⟩ := isIllegal_eq_true.1 h
  simp [sendsResponse, hd]

/-- One event sends one response if it is a legal read command, and none otherwise (`20_memory.md` R48). -/
theorem runEvent_responses {e : HostEvent} {s t : State} (h : runEvent e s = .next t) :
    (sendsResponse e = true ∧ ∃ v, t.responses = s.responses ++ [v]) ∨
      (sendsResponse e = false ∧ t.responses = s.responses) := by
  cases e with
  | reset =>
    obtain rfl := Host.Outcome.next.inj h
    exact .inr ⟨rfl, rfl⟩
  | command w =>
    rcases runWord_cases h with ⟨i, hd, hx⟩ | ⟨hill, rfl⟩
    · have hwf := wellFormed_of_decode hd
      rw [sendsResponse_of_decode hd]
      cases hread : isRead i with
      | true =>
        obtain ⟨answer, hexec, -⟩ := exec_read hwf hread
        obtain rfl := Host.Outcome.next.inj ((hexec s).symm.trans hx)
        exact .inl ⟨rfl, answer s, rfl⟩
      | false => exact .inr ⟨rfl, exec_responses_of_not_read hwf hread hx⟩
    · exact .inr ⟨sendsResponse_of_illegal hill, rfl⟩

/-- Settles O53: the record of the events taken is kept by every step, since an event sends a response exactly where it
is counted. -/
theorem responseCountIsKept : Obligations.ResponseCountIsKept := by
  intro sent s t inv h
  refine step_keeps_record (P := fun done s => s.responses.length = (done.filter sendsResponse).length) ?_ ?_ inv h
  · exact fun _ _ _ hcount => hcount
  · intro done e s t hcount hr
    rcases runEvent_responses hr with ⟨hsends, v, hresp⟩ | ⟨hsends, hresp⟩ <;> simp [hresp, hsends, hcount]

end Sys2Proof.Machine
end

section
/-! PROOFS. The family of `30_encoding.md`: the command word both ways, the opcode map, the illegal words, the block
format, the responses, the assembler and its pseudo-instructions. -/

namespace Sys2Proof

/-! ## The command word -/

/-- Every well-formed command's word decodes to it: the row its opcode selects finds its constraints on `idx` and `imm`
met (`30_encoding.md` R68). -/
theorem decode_encode {i : Instr} (h : i.wellFormed = true) : decode (encode i) = .ok i := by
  cases i with
  | lds | rdo | rdr =>
    rw [encode, decode_packFields _ _ _ (by decide)]
    exact withIndex_eq_ok.2 ⟨of_decide_eq_true h, rfl⟩
  | nop | ldn | lda1 | lda2 | ldh1 | ldh2 | enc | rdh1 | rdh2 | rdd | rds | clr =>
    rw [encode, decode_packFields _ _ _ (by decide)]
    rfl

/-- Settles O1, by the row of the opcode map that each command's word selects. -/
theorem decodeOfEncode : Obligations.DecodeOfEncode := fun _ => decode_encode

/-- Settles O2: an accepted word is packed from the fields its row admits, and no row admits an index out of range. -/
theorem encodeOfDecode : Obligations.EncodeOfDecode := fun _ _ h => ⟨wellFormed_of_decode h, encode_of_decode h⟩

/-- The decoder and the encoder as one relation between words and well-formed commands. -/
theorem decode_eq_ok_iff {w : CmdWord} {i : Instr} : decode w = .ok i ↔ i.wellFormed = true ∧ encode i = w :=
  ⟨encodeOfDecode w i, fun ⟨hwf, hw⟩ => hw ▸ decode_encode hwf⟩

/-! ## The opcode map -/

/-- A word is packed from given fields exactly when they are its own and its `zero` field is 0 (`30_encoding.md` R65). -/
theorem packFields_eq_iff {op idx : Nibble} {imm : Half} {w : CmdWord} : packFields op idx imm = w ↔
    fieldOp w = op ∧ fieldIdx w = idx ∧ fieldZero w = 0 ∧ fieldImm w = imm := by
  constructor
  · rintro rfl
    simp
  · rintro ⟨rfl, rfl, hzero, rfl⟩
    exact packFields_fields w hzero

/-- A row's match, mask and extra constraint, field by field (`30_encoding.md` R68). -/
theorem OpcodeRow.covers_iff (r : OpcodeRow) (w : CmdWord) : r.covers w = true ↔
    (fieldOp w &&& fieldOp r.mask = fieldOp r.pattern ∧ fieldIdx w &&& fieldIdx r.mask = fieldIdx r.pattern ∧
      fieldZero w &&& fieldZero r.mask = fieldZero r.pattern ∧
      fieldImm w &&& fieldImm r.mask = fieldImm r.pattern) ∧ (fieldIdx w).toNat < r.entries := by
  rw [← and_eq_iff_fields]
  simp [OpcodeRow.covers]

/-- A mask of ones on `op` or `idx` leaves the field. -/
theorem and_fifteen (x : Nibble) : x &&& 15#4 = x := BitVec.and_allOnes

/-- A mask of ones on `zero` leaves the field. -/
theorem and_255 (x : Byte) : x &&& 255#8 = x := BitVec.and_allOnes

/-- A mask of ones on `imm` leaves the field. -/
theorem and_65535 (x : Half) : x &&& 65535#16 = x := BitVec.and_allOnes

/-- `RDO`'s mask on `idx` is its bound on the byte index. -/
theorem and_eight_eq_zero_iff (x : Nibble) : x &&& 8#4 = 0#4 ↔ x.toNat < 8 := by
  revert x; decide

/-- A row's match, mask and constraint pick out the words of its command, with the word's own fields as operands. -/
theorem covers_iff_encode (w : CmdWord) {r : OpcodeRow} (hr : r ∈ opcodeRows) : r.covers w = true ↔
    (r.instr (fieldIdx w) (fieldImm w)).wellFormed = true ∧ encode (r.instr (fieldIdx w) (fieldImm w)) = w := by
  rw [OpcodeRow.covers_iff]
  simp only [opcodeRows, List.mem_cons, List.not_mem_nil, or_false] at hr
  rcases hr with rfl | rfl | rfl | rfl | rfl | rfl | rfl | rfl | rfl | rfl | rfl | rfl | rfl | rfl | rfl
  all_goals
    simp only [encode, packFields_eq_iff, Instr.wellFormed]
    generalize fieldOp w = op, fieldIdx w = idx, fieldZero w = zero, fieldImm w = imm
    have hidx : idx.toNat < 16 := idx.isLt
    simp [fieldOp, fieldIdx, fieldZero, fieldImm, and_fifteen, and_255, and_65535, and_eight_eq_zero_iff, hidx,
      and_comm, and_left_comm]

/-- A row covers a word exactly when the word decodes to the row's command. -/
theorem covers_iff_decode (w : CmdWord) {r : OpcodeRow} (hr : r ∈ opcodeRows) :
    r.covers w = true ↔ decode w = .ok (r.instr (fieldIdx w) (fieldImm w)) :=
  (covers_iff_encode w hr).trans decode_eq_ok_iff.symm

/-- Every command stands in a row, with the fields of its word as the row's operands. -/
theorem exists_row_instr (i : Instr) : ∃ r ∈ opcodeRows, r.instr (fieldIdx (encode i)) (fieldImm (encode i)) = i := by
  have hrow : (Laws.EncodeFields.opcode i).toNat < opcodeRows.length := by
    cases i <;> simp [Laws.EncodeFields.opcode, opcodeRows]
  refine ⟨opcodeRows[(Laws.EncodeFields.opcode i).toNat], List.getElem_mem hrow, ?_⟩
  cases i <;> simp [opcodeRows, Laws.EncodeFields.opcode, encode]

/-- A row covers words of its own opcode only: every mask takes in all of `op`. -/
theorem fieldOp_of_covers {r : OpcodeRow} (hr : r ∈ opcodeRows) {w : CmdWord} (h : r.covers w = true) :
    fieldOp w = fieldOp r.pattern := by
  have hmask : ∀ r ∈ opcodeRows, fieldOp r.mask = 15#4 := by decide
  obtain ⟨⟨hop, -⟩, -⟩ := (r.covers_iff w).1 h
  rwa [hmask r hr, and_fifteen] at hop

/-- Settles O3: each row is its command's words, each command has a row, and no two rows have the same opcode. -/
theorem opcodeMapDecides : Obligations.OpcodeMapDecides := by
  refine ⟨fun w r hr => covers_iff_decode w hr, fun w i h => ?_, ?_⟩
  · obtain ⟨r, hr, hinstr⟩ := exists_row_instr i
    rw [encode_of_decode h] at hinstr
    exact ⟨r, hr, (covers_iff_decode w hr).2 (hinstr ▸ h)⟩
  · have hops : opcodeRows.Pairwise fun r₁ r₂ => fieldOp r₁.pattern ≠ fieldOp r₂.pattern := by decide
    exact hops.imp_of_mem fun h₁ h₂ hne w ⟨hc₁, hc₂⟩ =>
      hne ((fieldOp_of_covers h₁ hc₁).symm.trans (fieldOp_of_covers h₂ hc₂))

/-! ## The illegal words -/

theorem withoutIdx_refuses {idx : Nibble} {r : Except DecodeError Instr} :
    (∃ e, withoutIdx idx r = .error e) ↔ idx ≠ 0 ∨ ∃ e, r = .error e := by
  unfold withoutIdx; split_ifs <;> simp_all

theorem withoutImm_refuses {imm : Half} {r : Except DecodeError Instr} :
    (∃ e, withoutImm imm r = .error e) ↔ imm ≠ 0 ∨ ∃ e, r = .error e := by
  unfold withoutImm; split_ifs <;> simp_all

theorem withIndex_refuses {n : Nat} {idx : Nibble} {e : DecodeError} {r : Except DecodeError Instr} :
    (∃ e', withIndex n idx e r = .error e') ↔ n ≤ idx.toNat ∨ ∃ e', r = .error e' := by
  unfold withIndex; split_ifs with h <;> simp [h, Nat.not_le.2, Nat.le_of_not_lt]

/-- A word is illegal for its opcode, for its `zero` field, or because its opcode's row refuses it
(`30_encoding.md` R65). -/
theorem isIllegal_iff (w : CmdWord) : isIllegal w = true ↔ fieldOp w = 0xF#4 ∨ fieldZero w ≠ 0 ∨
    ∃ e, decodeFields (fieldOp w) (fieldIdx w) (fieldImm w) = .error e := by
  rw [isIllegal_eq_true, decode]
  split_ifs with hop hzero <;> simp_all

/-- What a row of the opcode map refuses, as clauses (c) to (f) of `30_encoding.md` R69 list it by opcode. -/
theorem decodeFields_refuses_iff {op idx : Nibble} {imm : Half} (hop : op ≠ 0xF#4) :
    (∃ e, decodeFields op idx imm = .error e) ↔
      (idx ≠ 0 ∧ op.toNat ∈ [0x0, 0x4, 0x5, 0x7, 0x9, 0xA, 0xC, 0xD, 0xE]) ∨
      (imm ≠ 0 ∧ op.toNat ∈ [0x0, 0x1, 0x7, 0x8, 0x9, 0xA, 0xB, 0xC, 0xD, 0xE]) ∨
      ((op.toNat = 0x6 ∨ op.toNat = 0xB) ∧ 14 ≤ idx.toNat) ∨ (op.toNat = 0x8 ∧ 8 ≤ idx.toNat) := by
  rcases nibble_cases op with rfl | rfl | rfl | rfl | rfl | rfl | rfl | rfl | rfl | rfl | rfl | rfl | rfl | rfl | rfl |
    rfl
  all_goals
    simp [decodeFields, withoutIdx_refuses, withoutImm_refuses, withIndex_refuses, or_comm] at hop ⊢

end Sys2Proof

namespace Sys2Proof.Machine

/-- An illegal word records `CERR` and does nothing else (`30_encoding.md` R69). -/
theorem runWord_of_illegal {w : CmdWord} (h : isIllegal w = true) (s : State) : runWord w s = .next s.illegal := by
  obtain ⟨e, hd⟩ := isIllegal_eq_true.1 h
  rw [runWord, hd]

/-- Settles O4: the opcode 0xF, a `zero` field, and what each row refuses are the clauses (a) to (f). -/
theorem illegalWordsAndTheirEffect : Obligations.IllegalWordsAndTheirEffect := by
  refine ⟨fun w => ?_, fun w s h => runWord_of_illegal h s, fun w => isIllegal_eq_false⟩
  rw [isIllegal_iff]
  -- the statement's raw bits are the fields of the word
  change _ ↔ (fieldOp w).toNat = 0xF ∨ (fieldZero w).toNat ≠ 0 ∨
    ((fieldIdx w).toNat ≠ 0 ∧ (fieldOp w).toNat ∈ _) ∨ ((fieldImm w).toNat ≠ 0 ∧ (fieldOp w).toNat ∈ _) ∨
    (((fieldOp w).toNat = 0x6 ∨ (fieldOp w).toNat = 0xB) ∧ 14 ≤ (fieldIdx w).toNat) ∨
    ((fieldOp w).toNat = 0x8 ∧ 8 ≤ (fieldIdx w).toNat)
  by_cases hop : fieldOp w = 0xF#4
  · simp [hop]
  · simp [decodeFields_refuses_iff hop, BitVec.toNat_eq]

/-! ## The block format -/

/-- A byte of two nibbles is their value in base 16 (`00_scope.md` R10). -/
theorem toNat_nibbles (hi lo : Nibble) : (hi ++ lo : Byte).toNat = hi.toNat * 16 + lo.toNat := by
  have := Nat.shiftLeft_add_eq_or_of_lt lo.isLt hi.toNat
  rw [BitVec.toNat_append, ← this, Nat.shiftLeft_eq]

/-- Settles O44: each byte of a packed block is two nibbles, and an exponent up to 15 fits its nibble whole. -/
theorem packLayout : Obligations.PackLayout := by
  intro sel e codes he _
  constructor
  · have hheader : (pack sel e codes)[0] = sel ++ BitVec.ofNat 4 e := pack_getElem sel e codes 0
    rw [hheader, toNat_nibbles, BitVec.toNat_ofNat, Nat.mod_eq_of_lt (by omega)]
  · intro j
    have hpayload : (pack sel e codes)[j.val + 1] = codes.getD (2 * j.val) 0 ++ codes.getD (2 * j.val + 1) 0 :=
      pack_getElem sel e codes j.succ
    rw [hpayload, toNat_nibbles]

@[simp] theorem highNibble_append (hi lo : Nibble) : highNibble (hi ++ lo) = hi :=
  BitVec.extractLsb'_append_eq_left

@[simp] theorem lowNibble_append (hi lo : Nibble) : lowNibble (hi ++ lo) = lo :=
  BitVec.extractLsb'_append_eq_right

@[simp] theorem highNibble_append_lowNibble (b : Byte) : highNibble b ++ lowNibble b = b := by
  have hjoin : highNibble b ++ lowNibble b = b.extractLsb' 0 8 :=
    BitVec.extractLsb'_append_extractLsb'_eq_extractLsb' rfl
  simpa using hjoin

/-- Each payload byte holds two codes (`30_encoding.md` R62). -/
@[simp] theorem codesOf_length (bs : List Byte) : (codesOf bs).length = 2 * bs.length := by
  induction bs with
  | nil => rfl
  | cons b bs ih => simp [codesOf, ih]; omega

/-- The codes at 2j and 2j + 1 are the nibbles of payload byte j. -/
theorem codesOf_pair (bs : List Byte) (j : Nat) (hj : j < bs.length) :
    (codesOf bs).getD (2 * j) 0 ++ (codesOf bs).getD (2 * j + 1) 0 = bs[j] := by
  induction bs generalizing j with
  | nil => simp at hj
  | cons b bs ih =>
    cases j with
    | zero => simp [codesOf]
    | succ j => simpa [codesOf, Nat.mul_succ] using ih j (by simpa using hj)

/-- Codes packed two a byte are unpacked in their order. -/
theorem codesOf_pairs (n : Nat) (codes : List Nibble) (h : codes.length = 2 * n) :
    codesOf (List.ofFn fun j : Fin n => codes.getD (2 * j.val) 0 ++ codes.getD (2 * j.val + 1) 0) = codes := by
  induction n generalizing codes with
  | zero => exact (List.length_eq_zero_iff.1 h).symm
  | succ n ih =>
    obtain _ | ⟨q₀, _ | ⟨q₁, codes⟩⟩ := codes
    · simp at h
    · simp at h; omega
    · simpa [List.ofFn_succ, codesOf, Nat.mul_succ] using ih codes (by simp at h; omega)

/-- A packed block is its header and then the codes two a byte (`43_quantize.md` R126). -/
theorem pack_toList (sel : Nibble) (e : Nat) (codes : List Nibble) : (pack sel e codes).toList =
    (sel ++ BitVec.ofNat 4 e) ::
      List.ofFn fun j : Fin 7 => codes.getD (2 * j.val) 0 ++ codes.getD (2 * j.val + 1) 0 := by
  rw [pack, Vector.toList_ofFn, List.ofFn_succ]
  rfl

/-- Settles O45: the nibbles of a byte and the byte determine each other, in the header and in each payload byte. -/
theorem unpackInvertsPack : Obligations.UnpackInvertsPack := by
  constructor
  · intro sel e codes hlen
    have hheader : (pack sel e.toNat codes)[0] = sel ++ e := by
      simpa [packByte] using pack_getElem sel e.toNat codes 0
    rw [unpack, hheader, pack_toList, List.tail_cons, codesOf_pairs 7 codes hlen, highNibble_append, lowNibble_append]
  · intro b
    refine ⟨by simp [unpack], ?_⟩
    ext j hj : 1
    refine (pack_getElem _ _ _ ⟨j, hj⟩).trans ?_
    cases j with
    | zero => simp [packByte, unpack]
    | succ j =>
      have hlen : j < b.toList.tail.length := by simp; omega
      have hbyte : b.toList.tail[j] = b[j + 1] := by simp
      exact (codesOf_pair b.toList.tail j hlen).trans hbyte

/-! ## One response per legal read -/

/-- Every command completes (`60_exceptions.md` R180). -/
theorem exec_completes (i : Instr) (s : State) : ∃ t, exec i s = .next t := by
  obtain ⟨t, -, h, -⟩ := exec_runsAlike i (⟨rfl, rfl, rfl, rfl, rfl⟩ : SameInputs s s)
  exact ⟨t, h⟩

/-- Every word completes, a command or not (`60_exceptions.md` R180). -/
theorem runWord_completes (w : CmdWord) (s : State) : ∃ t, runWord w s = .next t := by
  unfold runWord
  split
  · exact exec_completes _ s
  · exact ⟨_, rfl⟩

/-- The words that send a response are those of the read commands (`30_encoding.md` R67). -/
theorem sendsResponse_command_iff {w : CmdWord} :
    sendsResponse (.command w) = true ↔ ∃ i, decode w = .ok i ∧ isRead i = true := by
  simp only [sendsResponse]
  split <;> simp_all

/-- Settles O52: a step on a pending word runs it, and running it sends one response if it is a read's, none otherwise. -/
theorem oneResponsePerLegalRead : Obligations.OneResponsePerLegalRead := by
  intro w rest s hp
  obtain ⟨t, ht⟩ := runWord_completes w { s with pending := rest }
  refine ⟨t, by rw [step_eq, hp]; exact ht, ?_⟩
  rw [← sendsResponse_command_iff]
  rcases runEvent_responses (e := .command w) ht with ⟨hsends, hresp⟩ | ⟨hsends, hresp⟩
  · exact ⟨fun _ => hresp, fun h => absurd hsends h⟩
  · exact ⟨fun h => by simp [hsends] at h, fun _ => hresp⟩

/-! ## The assembler -/

/-- A well-formed command's word is legal (`30_encoding.md` R68). -/
theorem isIllegal_encode {i : Instr} (h : i.wellFormed = true) : isIllegal (encode i) = false :=
  isIllegal_eq_false.2 ⟨i, decode_encode h⟩

/-- An index operand is taken only in the range its command allows (`30_encoding.md` R72). -/
theorem indexOperand_lt {n : Nat} {x : AsmOperand} {i : Nibble} (h : indexOperand n x = some i) (hn : n ≤ 16) :
    i.toNat < n := by
  unfold indexOperand at h
  split at h
  · split_ifs at h with hx
    obtain rfl := Option.some.inj h
    rw [BitVec.toNat_ofInt]
    omega
  · cases h

/-- A command the assembler builds from no operand is the one given. -/
theorem asmNone_wellFormed {i j : Instr} {ops : List AsmOperand} (hi : i.wellFormed = true)
    (h : asmNone i ops = some j) : j.wellFormed = true := by
  unfold asmNone at h
  split at h
  · rwa [← Option.some.inj h]
  · cases h

/-- A command with an index is well-formed if it is so for every index below its bound. -/
theorem asmIdx_wellFormed {n : Nat} {mk : Nibble → Instr} {j : Instr} {ops : List AsmOperand} (hn : n ≤ 16)
    (hmk : ∀ i, i.toNat < n → (mk i).wellFormed = true) (h : asmIdx n mk ops = some j) : j.wellFormed = true := by
  unfold asmIdx at h
  split at h
  · obtain ⟨i, hi, rfl⟩ := Option.map_eq_some_iff.1 h
    exact hmk i (indexOperand_lt hi hn)
  · cases h

/-- A command with an immediate is well-formed if it is so for every immediate. -/
theorem asmImm_wellFormed {mk : Half → Instr} {j : Instr} {ops : List AsmOperand}
    (hmk : ∀ v, (mk v).wellFormed = true) (h : asmImm mk ops = some j) : j.wellFormed = true := by
  unfold asmImm at h
  split at h
  · obtain ⟨v, -, rfl⟩ := Option.map_eq_some_iff.1 h
    exact hmk v
  · cases h

/-- A command with an index and an immediate is well-formed if it is so for every index below its bound. -/
theorem asmIdxImm_wellFormed {n : Nat} {mk : Nibble → Half → Instr} {j : Instr} {ops : List AsmOperand} (hn : n ≤ 16)
    (hmk : ∀ i v, i.toNat < n → (mk i v).wellFormed = true) (h : asmIdxImm n mk ops = some j) :
    j.wellFormed = true := by
  unfold asmIdxImm at h
  split at h
  · split at h
    · rename_i hi _
      obtain rfl := Option.some.inj h
      exact hmk _ _ (indexOperand_lt hi hn)
    · cases h
  · cases h

/-- The assembler builds no ill-formed command: each mnemonic bounds its index as R68 does. -/
theorem asmCommand_wellFormed {mnemonic : List Char} {ops : List AsmOperand} {i : Instr}
    (h : asmCommand mnemonic ops = some i) : i.wellFormed = true := by
  unfold asmCommand at h
  split at h
  case h_1 | h_8 | h_10 | h_11 | h_13 | h_14 | h_15 => exact asmNone_wellFormed rfl h -- no operand
  case h_2 => exact asmIdx_wellFormed (by decide) (fun _ _ => rfl) h -- `LDN`
  case h_3 | h_4 => exact asmIdxImm_wellFormed (by decide) (fun _ _ _ => rfl) h -- `LDA1`, `LDA2`
  case h_5 | h_6 => exact asmImm_wellFormed (fun _ => rfl) h -- `LDH1`, `LDH2`
  case h_7 => exact asmIdxImm_wellFormed (by decide) (fun _ _ => decide_eq_true) h -- `LDS`
  case h_9 | h_12 => exact asmIdx_wellFormed (by decide) (fun _ => decide_eq_true) h -- `RDO`, `RDR`
  case h_16 => cases h

/-- The commands of a block's load and encoding are well-formed. -/
theorem blk_wellFormed (samples : Vector Half 14) : ∀ i ∈ blk samples, i.wellFormed = true := by
  intro i hi
  simp only [blk, List.mem_append, List.mem_ofFn, List.mem_singleton] at hi
  rcases hi with ⟨k, rfl⟩ | rfl
  · exact decide_eq_true (by simp only [BitVec.toNat_ofNat, Config.block_eq]; omega)
  · rfl

/-- The commands of a block's read-out are well-formed. -/
theorem rdb_wellFormed : ∀ i ∈ rdb, i.wellFormed = true := by decide

/-- `LDC` with readable operands is its expansion. -/
theorem asmLdc_eq_ldc {ops : List AsmOperand} {is : List Instr} (h : asmLdc ops = some is) :
    ∃ i a1 a2, is = ldc i a1 a2 := by
  unfold asmLdc at h
  split at h
  · split at h
    · exact ⟨_, _, _, (Option.some.inj h).symm⟩
    · cases h
  · cases h

/-- `SEED` with readable operands is its expansion. -/
theorem asmSeed_eq_seed {ops : List AsmOperand} {is : List Instr} (h : asmSeed ops = some is) :
    ∃ h1 h2, is = seed h1 h2 := by
  unfold asmSeed at h
  split at h
  · split at h
    · exact ⟨_, _, (Option.some.inj h).symm⟩
    · cases h
  · cases h

/-- `BLK` with fourteen readable operands is its expansion. -/
theorem asmBlk_eq_blk {ops : List AsmOperand} {is : List Instr} (h : asmBlk ops = some is) :
    ∃ samples, is = blk samples := by
  unfold asmBlk at h
  split at h
  · split_ifs at h
    exact ⟨_, (Option.some.inj h).symm⟩
  · cases h

/-- `RDB` without operands is its expansion. -/
theorem asmRdb_eq_rdb {ops : List AsmOperand} {is : List Instr} (h : asmRdb ops = some is) : is = rdb := by
  unfold asmRdb at h
  split at h
  · exact (Option.some.inj h).symm
  · cases h

/-- A line that is taken expands into well-formed commands (`30_encoding.md` R72, R73). -/
theorem asmExpand_wellFormed {mnemonic : List Char} {ops : List AsmOperand} {is : List Instr}
    (h : asmExpand mnemonic ops = some is) : ∀ i ∈ is, i.wellFormed = true := by
  unfold asmExpand at h
  split at h
  case h_1 =>
    obtain ⟨i, a1, a2, rfl⟩ := asmLdc_eq_ldc h
    simp [ldc, Instr.wellFormed]
  case h_2 =>
    obtain ⟨h1, h2, rfl⟩ := asmSeed_eq_seed h
    simp [seed, Instr.wellFormed]
  case h_3 =>
    obtain ⟨samples, rfl⟩ := asmBlk_eq_blk h
    exact blk_wellFormed samples
  case h_4 =>
    obtain rfl := asmRdb_eq_rdb h
    exact rdb_wellFormed
  case h_5 =>
    obtain ⟨i, hi, rfl⟩ := Option.map_eq_some_iff.1 h
    simpa using asmCommand_wellFormed hi

/-- Settles O57: a line's words are those of well-formed commands. -/
theorem assembledWordsAreLegal : Obligations.AssembledWordsAreLegal := by
  intro line ws h w hw
  unfold assembleLine at h
  split at h
  · obtain ⟨is, his, rfl⟩ := Option.map_eq_some_iff.1 h
    obtain ⟨i, hi, rfl⟩ := List.mem_map.1 hw
    exact isIllegal_encode (asmExpand_wellFormed his i hi)
  · cases h

/-! ## The pseudo-instructions -/

/-- A command that completes is followed by the rest of the sequence (`20_memory.md` R48). -/
theorem runCommands_cons {i : Instr} {s t : State} (h : exec i s = .next t) (rest : List Instr) :
    runCommands (i :: rest) s = runCommands rest t := by
  rw [runCommands, h]

/-- A sequence that completes is followed by the next one (`20_memory.md` R48). -/
theorem runCommands_append {is : List Instr} {s t : State} (h : runCommands is s = .next t) (rest : List Instr) :
    runCommands (is ++ rest) s = runCommands rest t := by
  induction is generalizing s with
  | nil => rw [List.nil_append, Host.Outcome.next.inj h]
  | cons i is ih =>
    obtain ⟨s', hs'⟩ := exec_completes i s
    rw [runCommands_cons hs'] at h
    rw [List.cons_append, runCommands_cons hs', ih h]

/-- Loading some samples of a block puts them in their places and leaves the rest of the state. -/
theorem runCommands_lds (block : Vector Half 14) (ks : List (Fin 14)) (s : State) :
    runCommands (ks.map fun k => .lds (BitVec.ofNat 4 k.val) block[k]) s =
      .next { s with sample := Vector.ofFn fun j => if j ∈ ks then block[j] else s.sample[j] } := by
  induction ks generalizing s with
  | nil => simp [runCommands]
  | cons k ks ih =>
    have hk : sampleIndex (BitVec.ofNat 4 k.val) = some k := sampleIndex_eq_some.2 (by simp; omega)
    rw [List.map_cons, runCommands_cons (exec_lds_of_some s _ hk), ih]
    refine congrArg (fun block' => Host.Outcome.next { s with sample := block' }) (Vector.ext fun j hj => ?_)
    by_cases hjk : k = ⟨j, hj⟩
    · subst hjk
      simp
    · have hval : k.val ≠ j := fun h => hjk (Fin.ext h)
      simp [hval, Ne.symm hjk]

/-- Loading the whole block. -/
theorem runCommands_lds_all (block : Vector Half 14) (s : State) :
    runCommands (List.ofFn fun k : Fin 14 => Instr.lds (BitVec.ofNat 4 k.val) block[k]) s =
      .next { s with sample := block } := by
  rw [List.ofFn_eq_map, runCommands_lds]
  simp

/-- Reading some bytes of the encoded block sends them in that order and leaves the rest of the state. -/
theorem runCommands_rdo (js : List (Fin 8)) (s : State) :
    runCommands (js.map fun j => .rdo (BitVec.ofNat 4 j.val)) s =
      .next { s with responses := s.responses ++ js.map fun j => zextByte (s.outAt j) } := by
  induction js generalizing s with
  | nil => simp [runCommands]
  | cons j js ih =>
    have hj : byteIndex (BitVec.ofNat 4 j.val) = some j := byteIndex_eq_some.2 (by simp; omega)
    rw [List.map_cons, runCommands_cons (exec_rdo_of_some s hj), ih]
    simp [State.respond, State.outAt]

/-- The pair the two loads of `LDC` leave in the table. -/
theorem runCommands_ldc (i : Nibble) (a1 a2 : Half) (s : State) :
    runCommands (ldc i a1 a2) s = .next { s with coef := s.coef.set i.toNat ⟨a1, a2⟩ i.isLt } := by
  simp [ldc, runCommands, exec, execLda1, execLda2, State.writeCoefA1, State.writeCoefA2, State.coefAt]

/-- Settles O59: each expansion is run command by command. -/
theorem pseudoInstructionsExpand : Obligations.PseudoInstructionsExpand := by
  refine ⟨fun i a1 a2 s => ⟨_, runCommands_ldc i a1 a2 s, fun j => ?_, rfl⟩, fun h1 h2 s => ?_, fun block s => ?_,
    fun s => ?_⟩
  · simp [Vector.getElem_set, eq_comm]
  · simp [seed, runCommands, exec, execLdh1, execLdh2, State.writeHist1, State.writeHist2]
  · rw [blk, runCommands_append (runCommands_lds_all block s)]
    obtain ⟨t, ht⟩ := exec_completes .enc { s with sample := block }
    rw [runCommands_cons ht, ht, runCommands]
  · rw [rdb, List.ofFn_eq_map, runCommands_rdo]
    have hout : s.out.toList = List.ofFn s.outAt :=
      List.ext_getElem (by simp) fun j _ _ => by rw [Vector.getElem_toList, List.getElem_ofFn]; rfl
    rw [hout, List.ofFn_eq_map, List.map_map]
    rfl

/-! ## Immediates -/

/-- Settles O17: `sext_16` is the signed value of the pattern, which the 16-bit element holds as it is. -/
theorem immediateIsSignExtended : Obligations.ImmediateIsSignExtended := by
  intro v
  obtain ⟨hlow, hhigh⟩ := toInt_bounds16 v
  rw [← sext16_eq_toInt] at hlow hhigh
  exact ⟨fun h => if_pos h, fun h => if_neg (ne_true_of_eq_false h), hlow, hhigh,
    by rw [loadOperand_eq, sext16_eq_toInt], loadOperand_eq v⟩

/-! ## Lines of the assembler -/

/-- Settles O58, by running the assembler on each line. -/
theorem assemblerExamples : Obligations.AssemblerExamples := by
  unfold Obligations.AssemblerExamples
  decide +kernel

end Sys2Proof.Machine
end

section
/-! PROOFS. The family of `40_arithmetic.md`: shifts and nibbles, the ranges of the intermediates, `DIAG`, exact codes, and
the sentence on silence that the formulas do not bear out. -/

namespace Sys2Proof.Machine

/-! ## Shifts -/

/-- Settles O36: the left shift is the product by definition, and the right shift is the floor quotient. -/
theorem shiftsMultiplyAndFloor : Obligations.ShiftsMultiplyAndFloor := by
  intro x k
  have hpos : (0 : Int) < 2 ^ k := by positivity
  exact ⟨rfl, Int.ediv_mul_le x hpos.ne', Int.lt_ediv_add_one_mul_self x hpos, by simp [asr]⟩

/-! ## Nibbles -/

/-- A two's-complement element holds the one value of its range that is congruent to the integer put into it: what R84 says
of a nibble and R90 of `DIAG`. -/
theorem eq_toInt_ofInt_iff {n : Nat} (x y : Int) : y = (BitVec.ofInt (n + 1) x).toInt ↔
    -2 ^ n ≤ y ∧ y ≤ 2 ^ n - 1 ∧ y % 2 ^ (n + 1) = x % 2 ^ (n + 1) := by
  have hmod : (2 : Int) ^ (n + 1) ∣ y - x ↔ y % 2 ^ (n + 1) = x % 2 ^ (n + 1) :=
    Int.modEq_iff_dvd.symm.trans eq_comm
  rw [BitVec.toInt_ofInt, eq_comm, Int.bmod_eq_iff (by positivity), ← hmod]
  push_cast
  rw [pow_succ]
  omega

/-- The sign extension of a nibble is its two's-complement value (`30_encoding.md` R63). -/
theorem sext4_eq_toInt (q : Nibble) : sext4 q = q.toInt := by
  rw [sext4, BitVec.toInt_eq_toNat_cond]
  split_ifs <;> omega

/-- A nibble stands for a value in -8..7 (`30_encoding.md` R63). -/
theorem sext4_bounds (q : Nibble) : -8 ≤ sext4 q ∧ sext4 q ≤ 7 := by
  rw [sext4]
  split_ifs <;> omega

/-- The sign extension of the masked value is the one value in -8..7 congruent to it modulo 16 (R84). -/
theorem eq_sext4_maskNibble_iff (x y : Int) :
    y = sext4 (maskNibble x) ↔ -8 ≤ y ∧ y ≤ 7 ∧ y % 16 = x % 16 := by
  rw [sext4_eq_toInt]
  exact eq_toInt_ofInt_iff (n := 3) x y

/-- The sign extension inverts the mask on -8..7 (R84). -/
theorem sext4_maskNibble {x : Int} (hlow : -8 ≤ x) (hhigh : x ≤ 7) : sext4 (maskNibble x) = x :=
  ((eq_sext4_maskNibble_iff x x).2 ⟨hlow, hhigh, rfl⟩).symm

/-- Settles O37: the mask keeps the value modulo 16, and the sign extension picks the value of -8..7 congruent to it. -/
theorem nibbleMaskAndSignExtension : Obligations.NibbleMaskAndSignExtension := by
  refine ⟨fun x => ?_, fun q => ⟨fun h => if_pos h, fun h => if_neg h.not_ge⟩, fun x => sext4_maskNibble,
    fun x y => (eq_sext4_maskNibble_iff x y).symm⟩
  rw [maskNibble, BitVec.toNat_ofInt]
  omega

/-! ## Ranges of the intermediates (R89) -/

/-- A product of two 16-bit operands is extreme at the corners of their ranges. -/
theorem mul_bounds16 (h a : Half) :
    -1073709056 ≤ h.toInt * a.toInt ∧ h.toInt * a.toInt ≤ 1073741824 := by
  obtain ⟨hlow, hhigh⟩ := toInt_bounds16 h
  obtain ⟨alow, ahigh⟩ := toInt_bounds16 a
  constructor <;> nlinarith

/-- The prediction term is a sum of two such products. -/
theorem predict_bounds (a1 a2 h1 h2 : Half) :
    -2147418112 ≤ predict a1.toInt a2.toInt h1.toInt h2.toInt ∧
      predict a1.toInt a2.toInt h1.toInt h2.toInt ≤ 2147483648 := by
  have hrecent := mul_bounds16 h1 a1
  have hbefore := mul_bounds16 h2 a2
  rw [predict]
  omega

/-- The right shift is monotone. -/
theorem asr_mono {x y : Int} (h : x ≤ y) (k : Nat) : asr x k ≤ asr y k :=
  Int.ediv_le_ediv (by positivity) h

/-- The right shift stays in every range that holds the value and 0. -/
theorem asr_bounds {lo hi x : Int} (hlo : lo ≤ 0) (hhi : 0 ≤ hi) (hx : lo ≤ x ∧ x ≤ hi) (k : Nat) :
    lo ≤ asr x k ∧ asr x k ≤ hi := by
  obtain ⟨hlow, hhigh⟩ := hx
  have hone : (1 : Int) ≤ 2 ^ k := one_le_pow₀ (by norm_num)
  constructor
  · exact (Int.le_ediv_iff_mul_le (by omega)).2 ((mul_le_of_one_le_right hlo hone).trans hlow)
  · exact Int.ediv_le_of_le_mul (by omega) (hhigh.trans (le_mul_of_one_le_right hhi hone))

/-- A sample scaled to Q11. -/
theorem shl_bounds16 (s : Half) : -67108864 ≤ shl s.toInt 11 ∧ shl s.toInt 11 ≤ 67106816 := by
  have hs := toInt_bounds16 s
  rw [shl]
  omega

section
variable (s : Half) {t : Int} (ht : -2147418112 ≤ t ∧ t ≤ 2147483648)
include ht

/-- The residual against a prediction term in its range. -/
theorem errOf_bounds : -2214593536 ≤ errOf s.toInt t ∧ errOf s.toInt t ≤ 2214523904 := by
  have hs := shl_bounds16 s
  rw [errOf, Config.frac_eq, Config.bias_eq]
  omega

/-- The shifted residual against a prediction term in its range. -/
theorem resOf_bounds : -1081345 ≤ resOf s.toInt t ∧ resOf s.toInt t ≤ 1081310 := by
  obtain ⟨hlow, hhigh⟩ := errOf_bounds s ht
  exact ⟨asr_mono hlow 11, asr_mono hhigh 11⟩

end

/-- A code shifted by the exponent and scaled to Q11. -/
theorem shl_sext4_bounds (q : Nibble) {e : Nat} (he : e ≤ 15) :
    -536870912 ≤ shl (shl (sext4 q) e) 11 ∧ shl (shl (sext4 q) e) 11 ≤ 469762048 := by
  obtain ⟨hlow, hhigh⟩ := sext4_bounds q
  have hone : (1 : Int) ≤ 2 ^ e := one_le_pow₀ (by norm_num)
  have hpow : (2 : Int) ^ e ≤ 2 ^ 15 := pow_le_pow_right₀ (by norm_num) he
  rw [shl, shl]
  constructor <;> nlinarith

/-- Every residual of a replay is in range: the clamped predictions the local history follows are 16-bit values again
(`41_select.md` R100). -/
theorem replayErrs_bounds (a1 a2 h1 h2 : Half) (ss : List Half) :
    ∀ err ∈ replayErrs a1.toInt a2.toInt h1.toInt h2.toInt (ss.map BitVec.toInt),
      -2214593536 ≤ err ∧ err ≤ 2214523904 := by
  induction ss generalizing h1 h2 with
  | nil => simp [replayErrs]
  | cons s rest ih =>
    have hclamp := toInt_ofInt16 (clamp16_bounds (asr (predict a1.toInt a2.toInt h1.toInt h2.toInt) Config.frac))
    intro err herr
    rw [List.map_cons, replayErrs, ← hclamp] at herr
    rcases List.mem_cons.1 herr with rfl | herr
    · exact errOf_bounds s (predict_bounds a1 a2 h1 h2)
    · exact ih _ h1 err herr

/-- The accumulator is a sum of fourteen residuals in range. -/
theorem State.accOf_bounds (s : State) (p : CoefPair) : -31004309504 ≤ s.accOf p ∧ s.accOf p ≤ 31003334656 := by
  have hlen : (s.replay p).length = 14 := by simp [State.replay]
  have herr : ∀ err ∈ s.replay p, -2214593536 ≤ err ∧ err ≤ 2214523904 :=
    replayErrs_bounds p.a1 p.a2 s.hist1 s.hist2 s.sample.toList
  have hlow := List.card_nsmul_le_sum _ _ fun err h => (herr err h).1
  have hhigh := List.sum_le_card_nsmul _ _ fun err h => (herr err h).2
  rw [hlen] at hlow hhigh
  exact ⟨hlow, hhigh⟩

/-- Settles O38: each range follows from those of the operands, through the prediction term's. -/
theorem intermediateRanges : Obligations.IntermediateRanges := by
  refine ⟨mul_bounds16, fun a1 a2 h1 h2 => ?_, fun a1 a2 h1 h2 s => ?_, fun a1 a2 h1 h2 q e he => ?_,
    State.accOf_bounds⟩
  · obtain ⟨hlow, hhigh⟩ := predict_bounds a1 a2 h1 h2
    exact ⟨hlow, hhigh, asr_mono hlow 11, asr_mono hhigh 11⟩
  · have ht := predict_bounds a1 a2 h1 h2
    obtain ⟨slow, shigh⟩ := shl_bounds16 s
    obtain ⟨elow, ehigh⟩ := errOf_bounds s ht
    obtain ⟨rlow, rhigh⟩ := resOf_bounds s ht
    exact ⟨slow, shigh, elow, ehigh, rlow, rhigh, asr_bounds (by norm_num) (by norm_num) ⟨rlow, rhigh⟩⟩
  · have ht := predict_bounds a1 a2 h1 h2
    have hm := shl_sext4_bounds q he
    omega

/-! ## `DIAG` -/

/-- The error of a pass is the sum of its samples less that of its reconstructions (`43_quantize.md` R123). -/
theorem quantPass_err (a1 a2 : Int) (e : Nat) (h1 h2 : Int) (ss : List Int) :
    (quantPass a1 a2 e h1 h2 ss).err = ss.sum - (quantPass a1 a2 e h1 h2 ss).recon.sum := by
  induction ss generalizing h1 h2 with
  | nil => rfl
  | cons s rest ih =>
    simp only [quantPass, List.sum_cons, ih]
    ring

/-- The final pass reconstructs fourteen samples. -/
@[simp] theorem State.finalPass_recon_length (s : State) : s.finalPass.recon.length = 14 := by
  simp [State.quantize]

/-- An entry of `RECON` after `ENC` holds what the final pass reconstructed, whole (`43_quantize.md` R129). -/
theorem State.encodeBlock_recon_toInt (s : State) (k : Fin 14) :
    (s.encodeBlock.recon[k]).toInt = s.finalPass.recon[k] := by
  have hk : k.val < s.finalPass.recon.length := by simp
  have hrange := quantPass_recon_bounds _ _ _ _ _ _ _ (List.getElem_mem hk)
  rw [s.encodeBlock_recon, reconBuffer_getElem, List.getD_eq_getElem _ _ hk, toInt_ofInt16 hrange]
  rfl

/-- The final pass's reconstructions are the entries of `RECON` after `ENC`. -/
theorem State.finalPass_recon_eq_ofFn (s : State) :
    s.finalPass.recon = List.ofFn fun k : Fin 14 => (s.encodeBlock.recon[k]).toInt := by
  refine List.ext_getElem (by simp) fun k _ _ => ?_
  rw [List.getElem_ofFn, s.encodeBlock_recon_toInt]
  rfl

/-- The samples `ENC` runs over are the entries of `SAMPLE`. -/
theorem State.samples_eq_ofFn (s : State) : s.samples = List.ofFn fun k : Fin 14 => s.sample[k].toInt := by
  refine List.ext_getElem (by simp) fun k _ _ => ?_
  rw [List.getElem_ofFn]
  simp [State.samples]

/-- The error of the final pass is the block's sum of sample minus reconstruction (`43_quantize.md` R123). -/
theorem State.finalPass_err (s : State) :
    s.finalPass.err = ∑ k : Fin 14, (s.sample[k].toInt - (s.encodeBlock.recon[k]).toInt) := by
  rw [Finset.sum_sub_distrib, ← List.sum_ofFn, ← List.sum_ofFn, ← s.samples_eq_ofFn, ← s.finalPass_recon_eq_ofFn]
  exact quantPass_err ..

/-- Fourteen differences of 16-bit values, each in -65535..65535, sum to a value in -917490..917490. -/
theorem sum_sub_bounds (x y : Fin 14 → Half) :
    -917490 ≤ ∑ k, ((x k).toInt - (y k).toInt) ∧ ∑ k, ((x k).toInt - (y k).toInt) ≤ 917490 := by
  have hdiff : ∀ k, -65535 ≤ (x k).toInt - (y k).toInt ∧ (x k).toInt - (y k).toInt ≤ 65535 := by
    intro k
    have hx := toInt_bounds16 (x k)
    have hy := toInt_bounds16 (y k)
    omega
  have hlow := Finset.card_nsmul_le_sum Finset.univ _ _ fun k _ => (hdiff k).1
  have hhigh := Finset.sum_le_card_nsmul Finset.univ _ _ fun k _ => (hdiff k).2
  rw [Finset.card_fin] at hlow hhigh
  exact ⟨hlow, hhigh⟩

/-- Settles O39: `DIAG` gains the error of the final pass through `wrap64`, which is a 64-bit two's-complement element. -/
theorem diagArithmeticWraps : Obligations.DiagArithmeticWraps := by
  refine ⟨fun s => ⟨s.encodeBlock, rfl, ?_⟩, fun x y => (eq_toInt_ofInt_iff (n := 63) x y).symm⟩
  obtain ⟨hlow, hhigh⟩ := sum_sub_bounds (fun k => s.sample[k]) fun k => s.encodeBlock.recon[k]
  exact ⟨hlow, hhigh, by rw [s.encodeBlock_diag, s.finalPass_err]⟩

/-! ## Exact codes -/

/-- Adding bias and prediction back to the scaled residual gives the scaled sample, less what the shift discarded: the step
R91's proof turns on. -/
theorem shl_resOf_add_bias_add (s t : Int) :
    shl (resOf s t) 11 + 1024 + t = s * 2048 - errOf s t % 2048 := by
  have hdiv := Int.ediv_mul_add_emod (errOf s t) 2048
  have herr : errOf s t = s * 2048 - t - 1024 := rfl
  have hres : shl (resOf s t) 11 = errOf s t / 2048 * 2048 := rfl
  omega

/-- Settles O40: an exact code is the residual, and the floor of what it reconstructs from is the sample where the shift
discarded nothing, one less otherwise. -/
theorem exactCodeReconstruction : Obligations.ExactCodeReconstruction := by
  intro s t hlow hhigh
  have hs := toInt_bounds16 s
  have hexp : ∀ x, shl x 0 = x := by simp [shl]
  have hfloor : reconOf (maskNibble (resOf s.toInt t)) 0 t =
      clamp16 (asr (s.toInt * 2048 - errOf s.toInt t % 2048) 11) := by
    rw [reconOf, sext4_maskNibble hlow hhigh, hexp, Config.frac_eq, Config.bias_eq, shl_resOf_add_bias_add]
  rw [hfloor, clamp16_eq, asr]
  split_ifs <;> omega

/-! ## Silence -/

/-- Refutes O35: with the pair `(2048, 0)` the first sample reconstructs to -1, which the second sample is predicted from,
so its code is 0 and the first payload byte 0xF0 (log 11). -/
theorem not_silenceCodesForAnyCoefficients : ¬ Obligations.SilenceCodesForAnyCoefficients := by
  intro h
  obtain ⟨t, ht, hcodes⟩ := h { State.reset with coef := State.reset.coef.set 0 ⟨2048, 0⟩ } rfl rfl rfl
  have hfirst : t.out[1] = 0xF0 := by
    rw [← Host.Outcome.next.inj ht]
    decide +kernel
  exact absurd (hfirst.symm.trans (hcodes 0)) (by decide)

end Sys2Proof.Machine
end

section
/-! PROOFS. The family of `41_select.md`: the replay in closed form, the scan for the least accumulator, the chosen index. -/

namespace Sys2Proof.Machine

/-! ## `Replay` (R100) -/

/-- The local history after one sample is the history that starts at that sample's clamped prediction. -/
theorem localHistory_succ (a1 a2 h1 h2 : Int) (k : Nat) : localHistory a1 a2 h1 h2 (k + 1) =
    localHistory a1 a2 (clamp16 (asr (predict a1 a2 h1 h2) Config.frac)) h1 k := by
  induction k using Nat.twoStepInduction with
  | zero => rfl
  | one => exact (clamp16_eq _).symm
  | more k ih ih' => rw [localHistory, ih, ih', localHistory]

/-- The residuals of a replay, sample by sample: each is against the prediction from the two entries of the local history
before it. -/
theorem replayErrs_ofFn (a1 a2 h1 h2 : Int) {n : Nat} (ss : Fin n → Int) : replayErrs a1 a2 h1 h2 (List.ofFn ss) =
    List.ofFn fun k => errOf (ss k)
      (predict a1 a2 (localHistory a1 a2 h1 h2 (k.val + 1)) (localHistory a1 a2 h1 h2 k.val)) := by
  induction n generalizing h1 h2 with
  | zero => rfl
  | succ n ih =>
    rw [List.ofFn_succ, List.ofFn_succ, replayErrs, ih]
    simp only [← localHistory_succ]
    rfl

/-- The replay of a pair is its closed form. -/
theorem State.replay_eq_ofFn (s : State) (p : CoefPair) : s.replay p = List.ofFn (s.replayErr p) := by
  rw [State.replay, s.samples_eq_ofFn, replayErrs_ofFn]
  rfl

/-- The accumulator of a pair is the sum of the closed form. -/
theorem State.accOf_eq_replayAcc (s : State) (p : CoefPair) : s.accOf p = s.replayAcc p := by
  rw [State.accOf, s.replay_eq_ofFn, List.sum_ofFn, State.replayAcc]

/-- Settles O26: accumulator and shifted residuals are taken from the replay, which is its closed form. -/
theorem replayFollowsPredictions : Obligations.ReplayFollowsPredictions := by
  refine fun s p => ⟨s.replay_eq_ofFn p, s.accOf_eq_replayAcc p, ?_⟩
  rw [State.rangePass, s.replay_eq_ofFn, List.map_ofFn]
  rfl

/-! ## The scan (R102, R103) -/

/-- Of the first `n` values of `f`, the one at `b` is the smallest in absolute value, and the first such. -/
structure FirstLeast (f : Nat → Int) (n b : Nat) : Prop where
  /-- The index is one of the first `n`. -/
  lt : b < n
  /-- No value is smaller. -/
  least : ∀ j < n, |f b| ≤ |f j|
  /-- Every earlier value is larger. -/
  first : ∀ j < b, |f b| < |f j|

section
variable {f : Nat → Int} {n b : Nat}

/-- A strictly smaller next value is the new choice. -/
theorem FirstLeast.replace (h : FirstLeast f n b) (hnew : |f n| < |f b|) : FirstLeast f (n + 1) n where
  lt := n.lt_succ_self
  least j hj := by
    rcases Nat.lt_succ_iff_lt_or_eq.1 hj with hj | rfl
    · exact hnew.le.trans (h.least j hj)
    · exact le_rfl
  first j hj := hnew.trans_le (h.least j hj)

/-- A next value that is no smaller leaves the choice: the lower index wins a tie. -/
theorem FirstLeast.keep (h : FirstLeast f n b) (hnew : |f b| ≤ |f n|) : FirstLeast f (n + 1) b where
  lt := h.lt.trans n.lt_succ_self
  least j hj := by
    rcases Nat.lt_succ_iff_lt_or_eq.1 hj with hj | rfl
    · exact h.least j hj
    · exact hnew
  first := h.first

/-- The scan keeps its choice the first least of what it has seen. -/
theorem firstLeast_scanLeast (h : FirstLeast f n b) (m : Nat) :
    FirstLeast f (n + m) (scanLeast b (f b) n ((List.range' n m).map f)) := by
  induction m generalizing n b with
  | zero => exact h
  | succ m ih =>
    rw [List.range'_succ, List.map_cons, scanLeast, Nat.add_comm m 1, ← Nat.add_assoc]
    split_ifs with hnew <;> zify at hnew
    · exact ih (h.replace hnew)
    · exact ih (h.keep (not_lt.1 hnew))

end

/-- The index chosen is the first least of all (R102). -/
theorem firstLeast_leastIndex (f : Nat → Int) (n : Nat) :
    FirstLeast f (n + 1) (leastIndex ((List.range (n + 1)).map f)) := by
  have hstart : FirstLeast f 1 0 := ⟨one_pos, by simp, by simp⟩
  rw [List.range_eq_range', List.range'_succ, Nat.add_comm]
  exact firstLeast_scanLeast hstart n

/-! ## The chosen index (R102, R103) -/

/-- `acc[i]` of R101. -/
def State.accAt (s : State) (i : Nat) : Int := s.accOf (s.coefAt (BitVec.ofNat 4 i))

/-- The accumulator of a slot is that of the replay in closed form. -/
theorem State.accAt_eq_replayAcc (s : State) (i : Fin 16) : s.accAt i.val = s.replayAcc s.coef[i] := by
  have hslot : s.coefAt (BitVec.ofNat 4 i.val) = s.coef[i] := by
    simp [State.coefAt]
  rw [State.accAt, hslot, s.accOf_eq_replayAcc]

/-- There is one accumulator per candidate, in the order of the slots (R101). -/
theorem State.accs_eq_map_accAt (s : State) : s.accs = (List.range s.candidateCount).map s.accAt := by
  refine List.ext_getElem (by simp) fun i hi _ => ?_
  have hi : i < 16 := by simp [State.accs] at hi; omega
  simp [State.accs, State.accAt, State.coefAt, Nat.mod_eq_of_lt hi]

/-- The selector chooses the first least accumulator of the candidates. -/
theorem State.firstLeast_select (s : State) : FirstLeast s.accAt (s.nm1.toNat + 1) s.select.toNat := by
  rw [s.select_toNat, s.accs_eq_map_accAt]
  exact firstLeast_leastIndex s.accAt s.nm1.toNat

/-- The header's high nibble is the chosen index (`30_encoding.md` R61). -/
theorem State.encodeBlock_header_div (s : State) : (s.encodeBlock.out[0]).toNat / 16 = s.select.toNat := by
  have hheader : s.encodeBlock.out[0] = s.select ++ BitVec.ofNat 4 s.blockScale.1 := pack_getElem _ _ _ 0
  rw [hheader, toNat_nibbles]
  omega

/-- Settles O27: the header holds the selector's choice, which is the first least accumulator of the candidates. -/
theorem encChoosesLeastMagnitude : Obligations.EncChoosesLeastMagnitude := by
  intro s
  obtain ⟨-, hleast, hfirst⟩ := s.firstLeast_select
  simp only [← s.accAt_eq_replayAcc]
  exact ⟨s.encodeBlock, rfl, ⟨s.select.toNat, s.select.isLt⟩, s.encodeBlock_header_div.symm, s.select_le,
    fun i hi => hleast i (Nat.lt_succ_of_le hi), fun i => hfirst i⟩

end Sys2Proof.Machine
end

section
/-! PROOFS. The family of `42_scale.md`: the range test, the least exponent that passes it, the extremes of a list, and the
exponent of a block. -/

namespace Sys2Proof.Machine

section
variable {rmax rmin : Int} {e : Nat}

/-! ## The range test (R112) -/

/-- The range test in plain arithmetic. -/
theorem fits_iff : fits rmax rmin e ↔ rmax < 2 ^ (e + 3) ∧ -rmin ≤ 2 ^ (e + 3) := by
  simp [fits]

/-- A larger exponent passes where a smaller one does. -/
theorem fits_mono {e' : Nat} (hle : e ≤ e') (h : fits rmax rmin e) : fits rmax rmin e' := by
  have hpow : (2 : Int) ^ (e + 3) ≤ 2 ^ (e' + 3) := pow_le_pow_right₀ (by norm_num) (by omega)
  obtain ⟨hhigh, hlow⟩ := fits_iff.1 h
  exact fits_iff.2 ⟨hhigh.trans_le hpow, hlow.trans hpow⟩

/-- No exponent of 0..15 passes where the last does not. -/
theorem forall_not_fits_iff : (∀ e ≤ 15, ¬fits rmax rmin e) ↔ ¬fits rmax rmin 15 :=
  ⟨fun h => h 15 le_rfl, fun h _ he hfit => h (fits_mono he hfit)⟩

/-! ## `Scale` (R112, R113) -/

/-- An exponent is found exactly when it is the least of 0..15 that passes. -/
theorem scale_eq_found_iff :
    scale rmax rmin = (e, false) ↔ e ≤ 15 ∧ fits rmax rmin e ∧ ∀ e' < e, ¬fits rmax rmin e' := by
  have hfind : scale rmax rmin = (e, false) ↔ (List.range 16).find? (fits rmax rmin) = some e := by
    rw [scale, Config.expMax_eq]
    split <;> simp [*]
  rw [hfind, List.find?_range_eq_some, List.mem_range, Nat.lt_succ_iff]
  simp only [Bool.not_eq_true', Bool.not_eq_true, and_left_comm]

/-- The mark is set exactly when no exponent of 0..15 passes, and the exponent is then 15. -/
theorem scale_eq_unreachable_iff : scale rmax rmin = (15, true) ↔ ∀ e ≤ 15, ¬fits rmax rmin e := by
  have hfind : scale rmax rmin = (15, true) ↔ (List.range 16).find? (fits rmax rmin) = none := by
    rw [scale, Config.expMax_eq]
    split <;> simp [*]
  rw [hfind, List.find?_range_eq_none]
  simp only [Bool.not_eq_true', Bool.not_eq_true, Nat.lt_succ_iff]

/-- `Scale` finds an exponent, or answers 15 with the mark. -/
theorem scale_found_or_unreachable (rmax rmin : Int) :
    (∃ e, scale rmax rmin = (e, false)) ∨ scale rmax rmin = (15, true) := by
  rw [scale]
  split
  · exact .inl ⟨_, rfl⟩
  · exact .inr rfl

/-- Settles O41: the exponent found is the least that passes, and none passes exactly where 15 does not. -/
theorem scaleIsLeastFittingExponent : Obligations.ScaleIsLeastFittingExponent := by
  refine fun rmax rmin => ⟨fun e => ?_, ?_, fun hmark => ?_⟩
  · simp only [scale_eq_found_iff, fits_iff, gt_iff_lt, ge_iff_le, and_assoc]
  · rw [scale_eq_unreachable_iff, forall_not_fits_iff, fits_iff]
    omega
  · rcases scale_found_or_unreachable rmax rmin with ⟨e, he⟩ | hunreachable
    · simp [he] at hmark
    · rw [hunreachable]

/-- Every power the range test compares with is positive, so extremes that start at zero pass the same tests. -/
theorem fits_start_at_zero : fits (max 0 rmax) (min 0 rmin) e = fits rmax rmin e := by
  have hpos : (0 : Int) < 2 ^ (e + 3) := by positivity
  rw [Bool.eq_iff_iff, fits_iff, fits_iff]
  omega

/-- Settles O43: `Scale` sees the extremes through the range test alone, which does not see the start. -/
theorem extremesMayStartAtZero : Obligations.ExtremesMayStartAtZero := by
  intro rmax rmin _
  have hfits : fits (max 0 rmax) (min 0 rmin) = fits rmax rmin := funext fun _ => fits_start_at_zero
  rw [scale, hfits, scale]

end

/-! ## The extremes of a list (R111) -/

/-- The running maximum is below a positive bound exactly when every member is. -/
theorem maxOf_lt_iff {rs : List Int} {b : Int} (hb : 0 < b) : maxOf rs < b ↔ ∀ r ∈ rs, r < b := by
  cases rs with
  | nil => simpa [maxOf] using hb
  | cons r rest =>
    simp only [← Int.le_sub_one_iff]
    exact List.max_le_iff (List.cons_ne_nil r rest)

/-- The running minimum is at least a bound that is not positive exactly when every member is. -/
theorem le_minOf_iff {rs : List Int} {b : Int} (hb : b ≤ 0) : b ≤ minOf rs ↔ ∀ r ∈ rs, b ≤ r := by
  cases rs with
  | nil => simpa [minOf] using hb
  | cons r rest => exact List.le_min_iff (List.cons_ne_nil r rest)

/-- The extremes pass the range test exactly when the exponent's step covers every member. -/
theorem fits_extremes_iff {rs : List Int} {e : Nat} :
    fits (maxOf rs) (minOf rs) e ↔ ∀ r ∈ rs, r < 2 ^ (e + 3) ∧ -r ≤ 2 ^ (e + 3) := by
  have hpos : (0 : Int) < 2 ^ (e + 3) := by positivity
  simp only [fits_iff, neg_le, maxOf_lt_iff hpos, le_minOf_iff (neg_nonpos.2 hpos.le), forall₂_and]

/-- What an exponent's step covers is a signed nibble after the shift (R114). -/
theorem asr_nibble_bounds {r : Int} {e : Nat} (hhigh : r < 2 ^ (e + 3)) (hlow : -r ≤ 2 ^ (e + 3)) :
    -8 ≤ asr r e ∧ asr r e ≤ 7 := by
  have hpos : (0 : Int) < 2 ^ e := by positivity
  rw [pow_add] at hhigh hlow
  exact ⟨(Int.le_ediv_iff_mul_le hpos).2 (by omega), Int.le_of_lt_add_one (Int.ediv_lt_of_lt_mul hpos (by omega))⟩

/-- Settles O42: an exponent found passes the range test, so its step covers every member. -/
theorem foundExponentCoversResiduals : Obligations.FoundExponentCoversResiduals := by
  intro rs e hfound r hr
  obtain ⟨-, hfits, -⟩ := scale_eq_found_iff.1 hfound
  obtain ⟨hhigh, hlow⟩ := fits_extremes_iff.1 hfits r hr
  exact asr_nibble_bounds hhigh hlow

/-! ## The exponent of a block (R110 to R113) -/

/-- The extremes of the range pass pass the range test exactly when the exponent covers the pass. -/
theorem State.fits_rangePass_iff {s : State} {p : CoefPair} {e : Nat} :
    fits (maxOf (s.rangePass p)) (minOf (s.rangePass p)) e ↔ s.covers p e := by
  obtain ⟨-, -, hrange⟩ := replayFollowsPredictions s p
  rw [fits_extremes_iff, hrange, List.forall_mem_ofFn_iff, State.covers]

/-- An exponent is found for a pair exactly when it is the least of 0..15 that covers the range pass. -/
theorem State.scaleFor_eq_found_iff {s : State} {p : CoefPair} {e : Nat} :
    s.scaleFor p = (e, false) ↔ e ≤ 15 ∧ s.covers p e ∧ ∀ e' < e, ¬s.covers p e' := by
  simp only [State.scaleFor, scale_eq_found_iff, s.fits_rangePass_iff]

/-- The scale of a pair is unreachable exactly when no exponent of 0..15 covers the range pass. -/
theorem State.scaleFor_eq_unreachable_iff {s : State} {p : CoefPair} :
    s.scaleFor p = (15, true) ↔ ∀ e ≤ 15, ¬s.covers p e := by
  simp only [State.scaleFor, scale_eq_unreachable_iff, s.fits_rangePass_iff]

/-- No exponent of 0..15 covers the range pass exactly where a residual is beyond the step of 15. -/
theorem State.forall_not_covers_iff {s : State} {p : CoefPair} : (∀ e ≤ 15, ¬s.covers p e) ↔
    ∃ k : Fin 14, 262144 ≤ s.rangeResidual p k ∨ s.rangeResidual p k ≤ -262145 := by
  simp only [← s.fits_rangePass_iff, forall_not_fits_iff]
  rw [s.fits_rangePass_iff, State.covers, not_forall]
  exact exists_congr fun k => by omega

/-- The header's low nibble is the exponent (`30_encoding.md` R61). -/
theorem State.encodeBlock_header_mod (s : State) : (s.encodeBlock.out[0]).toNat % 16 = s.blockScale.1 := by
  have he : s.blockScale.1 ≤ 15 := scale_le _ _
  obtain ⟨hheader, -⟩ := packLayout s.select s.blockScale.1 s.finalPass.codes he (by simp [State.quantize])
  simp only [s.encodeBlock_out, hheader]
  omega

/-- Settles O28: either an exponent is found, the least that covers the range pass, or none covers it. -/
theorem encScaleIsLeastExponent : Obligations.EncScaleIsLeastExponent := by
  refine fun s => ⟨s.encodeBlock, rfl, ⟨s.select.toNat, s.select.isLt⟩, s.blockScale.1, s.encodeBlock_header_div.symm,
    s.encodeBlock_header_mod.symm, ?_, ?_, State.forall_not_covers_iff⟩
  · rintro ⟨e', he', hcovers⟩
    obtain ⟨e, hfound⟩ : ∃ e, s.blockScale = (e, false) :=
      (scale_found_or_unreachable _ _).resolve_right fun hmark => State.scaleFor_eq_unreachable_iff.1 hmark e' he' hcovers
    obtain ⟨-, hcovered, hleast⟩ := State.scaleFor_eq_found_iff.1 hfound
    rw [hfound, s.encodeBlock_sovf, hfound, Bool.or_false]
    exact ⟨hcovered, hleast, rfl⟩
  · intro hnone
    have hmark : s.blockScale = (15, true) := State.scaleFor_eq_unreachable_iff.2 hnone
    rw [s.encodeBlock_sovf, hmark, Bool.or_true]
    exact ⟨rfl, rfl⟩

end Sys2Proof.Machine
end

section
/-! PROOFS. The family of `43_quantize.md`: the final pass sample by sample, the code a block holds for a sample, and the
decoder's inverse. -/

namespace Sys2Proof.Machine

/-! ## The final pass, sample by sample (R120 to R124) -/

/-- The value of a code is the residual's quotient modulo 16 (R84, R120). -/
theorem quantCode_toNat (s t : Int) (e : Nat) :
    ((quantCode s t e).toNat : Int) = (s * 2 ^ 11 - t - 1024) / 2 ^ 11 / 2 ^ e % 16 := by
  rw [quantCode, maskNibble, BitVec.toNat_ofInt, Int.toNat_of_nonneg (Int.emod_nonneg _ (by norm_num))]
  rfl

section
variable (a1 a2 : Int) (e : Nat) (h1 h2 : Int) (ss : List Int)

/-- The history of a pass as one sequence: entry k + 2 is the reconstruction of sample k (R122). -/
def passHistory (k : Nat) : Int := (h2 :: h1 :: (quantPass a1 a2 e h1 h2 ss).recon).getD k 0

/-- The term sample k is predicted from the two reconstructions before it (R120). -/
def passPrediction (k : Nat) : Int :=
  predict a1 a2 (passHistory a1 a2 e h1 h2 ss (k + 1)) (passHistory a1 a2 e h1 h2 ss k)

/-- Each code and each reconstruction of a pass is that of its own sample against its own prediction (R120, R121). -/
theorem quantPass_getElem (k : Nat) (hk : k < ss.length) :
    (quantPass a1 a2 e h1 h2 ss).codes[k]'(by simpa) = quantCode ss[k] (passPrediction a1 a2 e h1 h2 ss k) e ∧
      (quantPass a1 a2 e h1 h2 ss).recon[k]'(by simpa) =
        reconOf (quantCode ss[k] (passPrediction a1 a2 e h1 h2 ss k) e) e (passPrediction a1 a2 e h1 h2 ss k) := by
  induction ss generalizing h1 h2 k with
  | nil => simp at hk
  | cons s rest ih =>
    cases k with
    | zero => exact ⟨rfl, rfl⟩
    -- the rest's history is the whole's from entry 1 on, so the terms of its sample k are those of sample k + 1 here
    | succ k => exact ih _ _ k (by simpa using hk)

end

/-- There is a code for each of the fourteen samples. -/
@[simp] theorem State.finalPass_codes_length (s : State) : s.finalPass.codes.length = 14 := by
  simp [State.quantize]

/-- The entries of the history sequence are `HIST2`, `HIST1` and then `RECON`, as signed values (R122, R129). -/
theorem State.passHistory_finalPass (s : State) (k : Nat) :
    passHistory s.chosen.a1.toInt s.chosen.a2.toInt s.blockScale.1 s.hist1.toInt s.hist2.toInt s.samples k =
      ((s.hist2 :: s.hist1 :: s.encodeBlock.recon.toList).getD k 0).toInt := by
  have hrecon : s.finalPass.recon = s.encodeBlock.recon.toList.map BitVec.toInt := by
    refine List.ext_getElem (by simp) fun k _ hk => ?_
    simpa using (s.encodeBlock_recon_toInt ⟨k, by simpa using hk⟩).symm
  have hentries : ∀ l : List Half, (l.map BitVec.toInt).getD k 0 = (l.getD k 0).toInt :=
    fun l => List.getD_map l (0 : Half) BitVec.toInt
  rw [← hentries, List.map_cons, List.map_cons, ← hrecon]
  rfl

/-- The term sample k of the block is predicted from (R120). -/
def State.blockPrediction (s : State) (k : Nat) : Int :=
  passPrediction s.chosen.a1.toInt s.chosen.a2.toInt s.blockScale.1 s.hist1.toInt s.hist2.toInt s.samples k

/-- The code of sample k of the block (R120). -/
def State.blockCode (s : State) (k : Fin 14) : Nibble :=
  quantCode s.sample[k].toInt (s.blockPrediction k) s.blockScale.1

/-- The final pass computes the code and the reconstruction of every sample of the block (R124). -/
theorem State.finalPass_getElem (s : State) (k : Fin 14) :
    s.finalPass.codes.getD k.val 0 = s.blockCode k ∧
      (s.encodeBlock.recon[k]).toInt = reconOf (s.blockCode k) s.blockScale.1 (s.blockPrediction k) := by
  have hk : k.val < s.samples.length := by simp
  have hsample : s.samples[k.val] = s.sample[k].toInt := by simp [State.samples]
  obtain ⟨hcode, hrecon⟩ := quantPass_getElem s.chosen.a1.toInt s.chosen.a2.toInt s.blockScale.1 s.hist1.toInt
    s.hist2.toInt s.samples k.val hk
  rw [hsample] at hcode hrecon
  rw [s.encodeBlock_recon_toInt, List.getD_eq_getElem _ _ (by simp)]
  exact ⟨hcode, hrecon⟩

/-- The payload nibble of sample k is its code: the high one where k is even (R62, R126). -/
theorem State.encodeBlock_nibble (s : State) (k : Fin 14) :
    (s.blockCode k).toNat = if k.val % 2 = 0 then (s.encodeBlock.out.toList.getD (1 + k.val / 2) 0).toNat / 16
      else (s.encodeBlock.out.toList.getD (1 + k.val / 2) 0).toNat % 16 := by
  obtain ⟨-, hpayload⟩ := packLayout s.select s.blockScale.1 s.finalPass.codes (scale_le _ _) s.finalPass_codes_length
  have hbyte := hpayload ⟨k.val / 2, by omega⟩
  have hget : s.encodeBlock.out.toList.getD (1 + k.val / 2) 0 =
      (pack s.select s.blockScale.1 s.finalPass.codes)[k.val / 2 + 1] := by
    rw [Nat.add_comm, List.getD_eq_getElem _ _ (by simp; omega)]
    simp
  rw [← (s.finalPass_getElem k).1, hget, hbyte]
  split_ifs
  · have hindex : 2 * (k.val / 2) = k.val := by omega
    rw [hindex]
    omega
  · have hindex : 2 * (k.val / 2) + 1 = k.val := by omega
    rw [hindex]
    omega

/-- Settles O29: the statement's terms for sample k, the prediction, the code and its signed value, are those of the final
pass, which computes the sample from them. -/
theorem encFinalPass : Obligations.EncFinalPass := by
  intro s
  have hdiag : s.encodeBlock.diag =
      BitVec.ofInt 64 (s.diag.toInt + ∑ k : Fin 14, (s.sample[k].toInt - (s.encodeBlock.recon[k]).toInt)) := by
    rw [s.encodeBlock_diag, s.finalPass_err, wrap64]
  refine ⟨s.encodeBlock, rfl, ⟨s.select.toNat, s.select.isLt⟩, s.blockScale.1, s.encodeBlock_header_div.symm,
    s.encodeBlock_header_mod.symm, fun k => ?_, s.encodeBlock_history.1, s.encodeBlock_history.2, hdiag⟩
  intro H p r byte q c
  have hp : p = s.blockPrediction k := by
    simp only [State.blockPrediction, passPrediction, s.passHistory_finalPass]
    rfl
  have hq : q = (s.blockCode k).toNat := by
    rw [s.encodeBlock_nibble k]
    push_cast
    rfl
  have hc : c = sext4 (s.blockCode k) := by
    simp only [c, hq, sext4, Nat.cast_le_ofNat]
  constructor
  · simp only [hq, r, hp]
    exact quantCode_toNat ..
  · rw [(s.finalPass_getElem k).2, reconOf, clamp16_eq, hc, hp]
    rfl

/-! ## Decoding (R127, R128) -/

/-- A nibble holds the exponent of the block whole (R61, R112). -/
theorem State.blockScale_toNat (s : State) : (BitVec.ofNat 4 s.blockScale.1).toNat = s.blockScale.1 :=
  Nat.mod_eq_of_lt (Nat.lt_succ_of_le (scale_le _ _))

/-- Unpacking the block `ENC` writes gives the chosen index, the exponent, whole in its nibble, and the codes (R64). -/
theorem State.unpack_encodeBlock_out (s : State) : unpack s.encodeBlock.out =
    { sel := s.select, e := BitVec.ofNat 4 s.blockScale.1, codes := s.finalPass.codes } := by
  rw [← unpackInvertsPack.1 _ _ _ s.finalPass_codes_length, s.blockScale_toNat, s.encodeBlock_out]

/-- Decoding the block `ENC` writes, from the table and the history it was encoded with, gives what `ENC` reconstructed and
the history it left (R128). -/
theorem State.decodeBlock_encodeBlock (s : State) : decodeBlock s.encodeBlock.out s.coef s.hist1 s.hist2 =
    { recon := s.encodeBlock.recon, hist1 := s.encodeBlock.hist1, hist2 := s.encodeBlock.hist2 } := by
  have hpass : decodePass s.coef[s.select.toNat].a1.toInt s.coef[s.select.toNat].a2.toInt s.blockScale.1 s.hist1.toInt
      s.hist2.toInt s.finalPass.codes = (s.finalPass.recon, s.finalPass.hist1, s.finalPass.hist2) :=
    decodePass_quantPass ..
  simp only [decodeBlock, s.unpack_encodeBlock_out, s.blockScale_toNat, hpass]
  rfl

/-- Settles O32: the decoder reads back the index, the exponent and the codes, and its pass over them is the encoder's. -/
theorem encRoundTrip : Obligations.EncRoundTrip := fun s => ⟨s.encodeBlock, rfl, s.decodeBlock_encodeBlock⟩

/-- Settles O33: the first block decodes to the history the second `ENC` starts from, and neither the reload nor the first
`ENC` changes the table (R143). -/
theorem consecutiveBlocksDecodeInSequence : Obligations.ConsecutiveBlocksDecodeInSequence := by
  intro s block
  refine ⟨s.encodeBlock, { s.encodeBlock with sample := block }.encodeBlock, rfl, rfl, ?_⟩
  have hsecond := State.decodeBlock_encodeBlock { s.encodeBlock with sample := block }
  rw [s.encodeBlock_coef] at hsecond
  rw [s.decodeBlock_encodeBlock]
  exact ⟨rfl, congrArg Decoded.recon hsecond⟩

end Sys2Proof.Machine
end

section
/-! PROOFS. The family of `44_encode_command.md`: what `ENC` leaves alone, and what it makes of silence. -/

namespace Sys2Proof.Machine

/-! ## The frame (R140, R141) -/

/-- Settles O30: `ENC` writes none of these elements, and to `SOVF` it only adds its own mark. -/
theorem encFrame : Obligations.EncFrame := fun s =>
  ⟨s.encodeBlock, rfl, s.encodeBlock_sample, s.encodeBlock_coef, s.encodeBlock_nm1, s.encodeBlock_cerr,
    fun hset => by rw [s.encodeBlock_sovf, hset, Bool.true_or], s.encodeBlock_pending, s.encodeBlock_responses⟩

/-! ## Silence (R91) -/

/-- The zero pair predicts 0 from every history. -/
@[simp] theorem predict_zero_pair (h1 h2 : Int) : predict 0 0 h1 h2 = 0 := by simp [predict]

/-- Every pair predicts 0 from the zero history. -/
@[simp] theorem predict_zero_history (a1 a2 : Int) : predict a1 a2 0 0 = 0 := by simp [predict]

/-- The replay of a pair from the zero history stays there. -/
@[simp] theorem localHistory_zero_history (a1 a2 : Int) (k : Nat) : localHistory a1 a2 0 0 k = 0 := by
  induction k using Nat.twoStepInduction with
  | zero => rfl
  | one => rfl
  | more k ih ih' => simp [localHistory, ih, ih']

/-- The pair predicts 0 throughout its replay: it is the zero pair, or the entering history is zero. -/
def State.ReplaysZero (s : State) (p : CoefPair) : Prop := p = ⟨0, 0⟩ ∨ (s.hist1 = 0 ∧ s.hist2 = 0)

section
variable {s : State} {p : CoefPair} (hblock : s.sample = Vector.replicate 14 0)
include hblock

/-- A sample of the silent block is 0. -/
theorem sample_of_silence (k : Fin 14) : s.sample[k].toInt = 0 := by simp [hblock]

/-- Against a prediction of 0, a sample of silence leaves the rounding bias as its residual (R86). -/
theorem replayErr_of_silence (hp : s.ReplaysZero p) (k : Fin 14) : s.replayErr p k = -1024 := by
  rw [State.replayErr, sample_of_silence hblock]
  rcases hp with rfl | ⟨h1, h2⟩
  · simp
  · simp [h1, h2]

/-- The exponent of silence is 0: every shifted residual is -1 (R110, R112). -/
theorem scaleFor_of_silence (hp : s.ReplaysZero p) : s.scaleFor p = (0, false) := by
  have hcovers : s.covers p 0 := fun k => by
    rw [State.rangeResidual, replayErr_of_silence hblock hp]
    decide
  exact State.scaleFor_eq_found_iff.2 ⟨by norm_num, hcovers, by simp⟩

/-- From the zero history all candidates tie, so the selector chooses the first (R103). -/
theorem select_of_silence (h1 : s.hist1 = 0) (h2 : s.hist2 = 0) : s.select = 0 := by
  have hacc : ∀ i, s.accAt i = s.accAt 0 := fun i => by
    simp only [State.accAt, State.accOf_eq_replayAcc, State.replayAcc, replayErr_of_silence hblock (.inr ⟨h1, h2⟩)]
  by_contra hne
  have hpos : 0 < s.select.toNat := Nat.pos_of_ne_zero fun h0 => hne (BitVec.eq_of_toNat_eq h0)
  exact (s.firstLeast_select.first 0 hpos).ne (congrArg abs (hacc _))

/-- Where silence is predicted 0 and scaled by 0, its code is 0xF and its reconstruction -1 (R120, R121). -/
theorem code_and_recon_of_silence (hscale : s.blockScale = (0, false)) {k : Fin 14} (hpred : s.blockPrediction k = 0) :
    s.blockCode k = 0xF ∧ s.encodeBlock.recon[k] = -1 := by
  have hcode : s.blockCode k = 0xF := by
    rw [State.blockCode, sample_of_silence hblock, hpred, hscale]
    decide
  refine ⟨hcode, BitVec.eq_of_toInt_eq ?_⟩
  rw [(s.finalPass_getElem k).2, hcode, hpred, hscale]
  decide

/-- With the zero pair chosen, silence encodes to a block of codes 0xF and reconstructs to -1, an error of 14. -/
theorem encodeBlock_of_silence_zero_pair (hselect : s.select = 0) (hpair : s.coef[0] = ⟨0, 0⟩) :
    s.encodeBlock = { s with
      out := #v[0x00, 0xFF, 0xFF, 0xFF, 0xFF, 0xFF, 0xFF, 0xFF], recon := Vector.replicate 14 (-1),
      hist1 := -1, hist2 := -1, diag := s.diag + 14 } := by
  have hchosen : s.chosen = ⟨0, 0⟩ := by rw [State.chosen, hselect]; exact hpair
  have hscale : s.blockScale = (0, false) := scaleFor_of_silence hblock (.inl hchosen)
  have hsamples (k : Fin 14) : s.blockCode k = 0xF ∧ s.encodeBlock.recon[k] = -1 :=
    code_and_recon_of_silence hblock hscale (by simp [State.blockPrediction, passPrediction, hchosen])
  have hcodes : s.finalPass.codes = List.replicate 14 0xF := by
    refine List.ext_getElem (by simp) fun k hk _ => ?_
    have hk14 : k < 14 := by simpa using hk
    rw [List.getElem_replicate, ← List.getD_eq_getElem _ 0 hk, (s.finalPass_getElem ⟨k, hk14⟩).1, (hsamples _).1]
  have hout : s.encodeBlock.out = #v[0x00, 0xFF, 0xFF, 0xFF, 0xFF, 0xFF, 0xFF, 0xFF] := by
    rw [s.encodeBlock_out, hselect, hscale, hcodes]
    decide
  have hrecon : s.encodeBlock.recon = Vector.replicate 14 (-1) := by
    refine Vector.ext fun k hk => ?_
    rw [Vector.getElem_replicate]
    exact (hsamples ⟨k, hk⟩).2
  have hdiag : s.encodeBlock.diag = s.diag + 14 := by
    have herr : s.finalPass.err = 14 := by
      rw [s.finalPass_err]
      simp only [sample_of_silence hblock, (hsamples _).2]
      decide
    rw [s.encodeBlock_diag, herr, wrap64, BitVec.ofInt_add, BitVec.ofInt_toInt]
    rfl
  have hsovf : s.encodeBlock.sovf = s.sovf := by rw [s.encodeBlock_sovf, hscale, Bool.or_false]
  obtain ⟨hhist1, hhist2⟩ := s.encodeBlock_history
  exact State.ext (hhist1.trans (hsamples 13).2) (hhist2.trans (hsamples 12).2) s.encodeBlock_coef s.encodeBlock_nm1
    s.encodeBlock_sample hout hrecon hdiag hsovf s.encodeBlock_cerr s.encodeBlock_pending s.encodeBlock_responses

/-- From the zero history, whatever the coefficients, silence is stored with index 0 and exponent 0, and its first
sample codes to 0xF and reconstructs to -1. -/
theorem encodeBlock_of_silence_zero_history (h1 : s.hist1 = 0) (h2 : s.hist2 = 0) :
    s.encodeBlock.out[0] = 0x00 ∧ (s.encodeBlock.out[1]).toNat / 16 = 0xF ∧ s.encodeBlock.recon[0] = -1 ∧
      s.encodeBlock.sovf = s.sovf := by
  have hscale : s.blockScale = (0, false) := scaleFor_of_silence hblock (.inr ⟨h1, h2⟩)
  have hpred : s.blockPrediction 0 = 0 := by simp [State.blockPrediction, passPrediction, passHistory, h1, h2]
  obtain ⟨hcode, hrecon⟩ := code_and_recon_of_silence hblock hscale (k := 0) hpred
  have hheader : s.encodeBlock.out[0] = s.select ++ BitVec.ofNat 4 s.blockScale.1 := pack_getElem _ _ _ 0
  have hpayload : (s.blockCode 0).toNat = (s.encodeBlock.out[1]).toNat / 16 := s.encodeBlock_nibble 0
  refine ⟨?_, ?_, hrecon, ?_⟩
  · rw [hheader, select_of_silence hblock h1 h2, hscale]
    decide
  · rw [← hpayload, hcode]
    decide
  · rw [s.encodeBlock_sovf, hscale, Bool.or_false]

end

/-- Settles O34: the zero pair in slot 0 is chosen because it is the only candidate or because all candidates tie. -/
theorem silenceWithZeroPair : Obligations.SilenceWithZeroPair := by
  refine ⟨fun s hcase hpair hblock => congrArg Host.Outcome.next ?_,
    fun s h1 h2 hblock => ⟨s.encodeBlock, rfl, encodeBlock_of_silence_zero_history hblock h1 h2⟩⟩
  have hselect : s.select = 0 := by
    rcases hcase with hone | ⟨h1, h2⟩
    · have hle := s.select_le
      rw [hone] at hle
      exact BitVec.eq_of_toNat_eq (Nat.le_zero.1 hle)
    · exact select_of_silence hblock h1 h2
  exact encodeBlock_of_silence_zero_pair hblock hselect hpair

end Sys2Proof.Machine
end

section
/-! PROOFS. The family of `45_load_read_commands.md`: for each load and each read its word, when a word with its opcode
is illegal, what it writes or answers, and what it leaves alone. -/

namespace Sys2Proof

/-! ## Which words with a given opcode are illegal -/

section
variable {w : CmdWord} {op : Nibble}

/-- A word whose opcode has a row is illegal for its `zero` field or by what the row checks (`30_encoding.md` R69). -/
theorem isIllegal_iff_row {row : Except DecodeError Instr} (h : fieldOp w = op) (hop : op ≠ 0xF#4)
    (hrow : decodeFields op (fieldIdx w) (fieldImm w) = row) :
    isIllegal w = true ↔ fieldZero w ≠ 0 ∨ ∃ e, row = .error e := by
  subst h hrow
  rw [isIllegal_iff, or_iff_right hop]

/-- A row that takes both operands checks neither. -/
theorem isIllegal_iff_of_idx_imm {i : Instr} (h : fieldOp w = op) (hop : op ≠ 0xF#4)
    (hrow : decodeFields op (fieldIdx w) (fieldImm w) = .ok i) : isIllegal w = true ↔ fieldZero w ≠ 0 := by
  simp [isIllegal_iff_row h hop hrow]

/-- A row that takes only `imm` checks that `idx` is 0. -/
theorem isIllegal_iff_of_imm {i : Instr} (h : fieldOp w = op) (hop : op ≠ 0xF#4)
    (hrow : decodeFields op (fieldIdx w) (fieldImm w) = withoutIdx (fieldIdx w) (.ok i)) :
    isIllegal w = true ↔ fieldIdx w ≠ 0 ∨ fieldZero w ≠ 0 := by
  simp [isIllegal_iff_row h hop hrow, withoutIdx_refuses, or_comm]

/-- A row that takes only an index among `n` entries checks that index and that `imm` is 0. -/
theorem isIllegal_iff_of_index {n : Nat} {e : DecodeError} {i : Instr} (h : fieldOp w = op) (hop : op ≠ 0xF#4)
    (hrow : decodeFields op (fieldIdx w) (fieldImm w) =
      withIndex n (fieldIdx w) e (withoutImm (fieldImm w) (.ok i))) :
    isIllegal w = true ↔ n ≤ (fieldIdx w).toNat ∨ fieldImm w ≠ 0 ∨ fieldZero w ≠ 0 := by
  simp [isIllegal_iff_row h hop hrow, withIndex_refuses, withoutImm_refuses, or_comm, or_assoc]

/-- A row that takes no operand checks that `idx` and `imm` are 0. -/
theorem isIllegal_iff_of_no_operand {i : Instr} (h : fieldOp w = op) (hop : op ≠ 0xF#4)
    (hrow : decodeFields op (fieldIdx w) (fieldImm w) = withoutIdx (fieldIdx w) (withoutImm (fieldImm w) (.ok i))) :
    isIllegal w = true ↔ fieldIdx w ≠ 0 ∨ fieldZero w ≠ 0 ∨ fieldImm w ≠ 0 := by
  simp [isIllegal_iff_row h hop hrow, withoutIdx_refuses, withoutImm_refuses, or_left_comm]

end

/-- A word with nothing below `idx` is packed with `imm` 0 (`30_encoding.md` R65). -/
theorem append_zero_eq_packFields (op idx : Nibble) : op ++ idx ++ 0#24 = packFields op idx 0 :=
  (BitVec.append_assoc (x₁ := op ++ idx) (x₂ := 0#8) (x₃ := 0#16)).symm

end Sys2Proof

namespace Sys2Proof.Machine

/-! ## Loads -/

/-- Settles O11: the row of `LDN` takes any index and checks that `imm` is 0. -/
theorem ldnSetsCandidateCount : Obligations.LdnSetsCandidateCount := by
  refine ⟨fun n => ?_, fun w h => ?_, fun n s => ⟨s.writeNm1 n, rfl, rfl, rfl⟩⟩
  · rw [append_zero_eq_packFields]
    exact decode_encode (i := .ldn n) rfl
  · rw [isIllegal_iff_row h (by decide) rfl]
    simp [decodeFields, withoutImm_refuses, or_comm]

section
variable (s : State) (i : Nibble) (v : Half) (j : Fin 16)

/-- A nibble and a slot number are the same index when they have the same value. -/
theorem eq_ofFin_iff : i = BitVec.ofFin j ↔ j.val = i.toNat := by
  rw [← BitVec.toNat_inj, eq_comm]
  rfl

/-- A slot of the table after `COEF[i].a1 <- v`, by slot number (`20_memory.md` R47). -/
theorem State.coef_writeCoefA1 : (s.writeCoefA1 i v).coef[j] =
    if j.val = i.toNat then { s.coef[j] with a1 := v } else s.coef[j] :=
  (s.coefAt_writeCoefA1 i (BitVec.ofFin j) v).trans (if_congr (eq_ofFin_iff i j) rfl rfl)

/-- A slot of the table after `COEF[i].a2 <- v`, by slot number (`20_memory.md` R47). -/
theorem State.coef_writeCoefA2 : (s.writeCoefA2 i v).coef[j] =
    if j.val = i.toNat then { s.coef[j] with a2 := v } else s.coef[j] :=
  (s.coefAt_writeCoefA2 i (BitVec.ofFin j) v).trans (if_congr (eq_ofFin_iff i j) rfl rfl)

/-! What the loads of a 16-bit element write is the immediate as it stands (R150). -/

theorem exec_lda1 : exec (.lda1 i v) s = .next (s.writeCoefA1 i v) := by rw [exec, execLda1, loadOperand_eq]

theorem exec_lda2 : exec (.lda2 i v) s = .next (s.writeCoefA2 i v) := by rw [exec, execLda2, loadOperand_eq]

theorem exec_ldh1 : exec (.ldh1 v) s = .next (s.writeHist1 v) := by rw [exec, execLdh1, loadOperand_eq]

theorem exec_ldh2 : exec (.ldh2 v) s = .next (s.writeHist2 v) := by rw [exec, execLdh2, loadOperand_eq]

end

/-- Settles O12: a read of the table after the write finds the new `a1` in slot `i` and the old pairs elsewhere. -/
theorem lda1WritesFirstCoefficient : Obligations.Lda1WritesFirstCoefficient := by
  refine ⟨fun i v => decode_encode (i := .lda1 i v) rfl, fun w h => isIllegal_iff_of_idx_imm h (by decide) rfl,
    fun i v s => ⟨s.writeCoefA1 i v, exec_lda1 s i v, fun j hj => ?_, fun j hj => ?_, rfl⟩⟩
  · rw [State.coef_writeCoefA1, if_pos hj]
    exact ⟨rfl, rfl⟩
  · rw [State.coef_writeCoefA1, if_neg hj]

/-- Settles O13: a read of the table after the write finds the new `a2` in slot `i` and the old pairs elsewhere. -/
theorem lda2WritesSecondCoefficient : Obligations.Lda2WritesSecondCoefficient := by
  refine ⟨fun i v => decode_encode (i := .lda2 i v) rfl, fun w h => isIllegal_iff_of_idx_imm h (by decide) rfl,
    fun i v s => ⟨s.writeCoefA2 i v, exec_lda2 s i v, fun j hj => ?_, fun j hj => ?_, rfl⟩⟩
  · rw [State.coef_writeCoefA2, if_pos hj]
    exact ⟨rfl, rfl⟩
  · rw [State.coef_writeCoefA2, if_neg hj]

/-- Settles O14: the word is that of `LDH1`, its row takes only `imm`, and the operand is written as it is. -/
theorem ldh1WritesHist1 : Obligations.Ldh1WritesHist1 :=
  ⟨fun v => decode_encode (i := .ldh1 v) rfl, fun _ h => isIllegal_iff_of_imm h (by decide) rfl,
    fun v s => exec_ldh1 s v⟩

/-- Settles O15: the word is that of `LDH2`, its row takes only `imm`, and the operand is written as it is. -/
theorem ldh2WritesHist2 : Obligations.Ldh2WritesHist2 :=
  ⟨fun v => decode_encode (i := .ldh2 v) rfl, fun _ h => isIllegal_iff_of_imm h (by decide) rfl,
    fun v s => exec_ldh2 s v⟩

/-- Settles O16: an index up to 13 names the sample written, and no other entry is. -/
theorem ldsWritesOneSample : Obligations.LdsWritesOneSample := by
  refine ⟨fun k v hk => ?_, fun w h => ?_, fun k v s hk => ?_⟩
  · exact decode_encode (i := .lds k v) (decide_eq_true (Nat.lt_succ_of_le hk))
  · rw [isIllegal_iff_row h (by decide) rfl]
    simp [decodeFields, withIndex_refuses, or_comm]
  · obtain ⟨m, hm⟩ : ∃ m : Fin 14, m.val = k.toNat := ⟨⟨k.toNat, Nat.lt_succ_of_le hk⟩, rfl⟩
    rw [← hm]
    refine ⟨s.writeSample m v, exec_lds_of_some s v (sampleIndex_eq_some.2 hm), fun j hj => ?_, fun j hj => ?_, rfl⟩
    · rw [State.sample_writeSample, if_pos (Fin.ext hj.symm)]
    · rw [State.sample_writeSample, if_neg fun h => hj (congrArg Fin.val h.symm)]

/-! ## Reads -/

/-- `zext_64` keeps the unsigned value (`00_scope.md` R11). -/
theorem toNat_zextByte (b : Byte) : (zextByte b).toNat = b.toNat := BitVec.toNat_setWidth_of_le (by decide)

/-- `sext_64` keeps the signed value (`00_scope.md` R11). -/
theorem toInt_sextHalf (v : Half) : (sextHalf v).toInt = v.toInt := BitVec.toInt_signExtend_of_le (by decide)

/-- Settles O18: an index up to 7 names the byte sent. -/
theorem rdoRespondsWithByte : Obligations.RdoRespondsWithByte := by
  refine ⟨fun j hj => ?_, fun w h => isIllegal_iff_of_index h (by decide) rfl, fun j k s hk => ?_⟩
  · rw [append_zero_eq_packFields]
    exact decode_encode (i := .rdo j) (decide_eq_true (Nat.lt_succ_of_le hj))
  · exact ⟨zextByte (s.outAt k), toNat_zextByte _, exec_rdo_of_some s (byteIndex_eq_some.2 hk)⟩

/-- Settles O19: the words are those of `RDH1` and `RDH2`, their rows take no operand, and `sext_64` keeps the value. -/
theorem historyReadsRespondWithHistory : Obligations.HistoryReadsRespondWithHistory := by
  refine ⟨decode_encode (i := .rdh1) rfl, decode_encode (i := .rdh2) rfl, fun w h => ?_,
    fun s => ⟨sextHalf s.hist1, toInt_sextHalf _, rfl⟩, fun s => ⟨sextHalf s.hist2, toInt_sextHalf _, rfl⟩⟩
  rcases h with h | h
  · exact isIllegal_iff_of_no_operand h (by decide) rfl
  · exact isIllegal_iff_of_no_operand h (by decide) rfl

/-- Settles O20: an index up to 13 names the reconstruction sent. -/
theorem rdrRespondsWithReconstruction : Obligations.RdrRespondsWithReconstruction := by
  refine ⟨fun k hk => ?_, fun w h => isIllegal_iff_of_index h (by decide) rfl, fun k j s hj => ?_⟩
  · rw [append_zero_eq_packFields]
    exact decode_encode (i := .rdr k) (decide_eq_true (Nat.lt_succ_of_le hk))
  · exact ⟨sextHalf (s.reconAt j), toInt_sextHalf _, exec_rdr_of_some s (sampleIndex_eq_some.2 hj)⟩

/-- Settles O21: the word is that of `RDD`, its row takes no operand, and `DIAG` is sent as it is. -/
theorem rddRespondsWithDiag : Obligations.RddRespondsWithDiag :=
  ⟨decode_encode (i := .rdd) rfl, fun _ h => isIllegal_iff_of_no_operand h (by decide) rfl, fun _ => rfl⟩

/-- `STATUS` bit by bit (`10_state.md` R26). -/
theorem State.getLsbD_statusWord (s : State) (n : Nat) :
    s.statusWord.getLsbD n = if n = 0 then s.sovf else if n = 1 then s.cerr else false := by
  rw [State.statusWord, BitVec.getLsbD_setWidth, BitVec.getLsbD_append]
  match n with
  | 0 => simp
  | 1 => simp
  | n + 2 => simp

/-- Settles O22: the word is that of `RDS`, its row takes no operand, and `STATUS` is sent bit by bit as R26 says. -/
theorem rdsRespondsWithStatus : Obligations.RdsRespondsWithStatus := by
  refine ⟨decode_encode (i := .rds) rfl, fun w h => isIllegal_iff_of_no_operand h (by decide) rfl,
    fun s => ⟨s.statusWord, s.getLsbD_statusWord 0, s.getLsbD_statusWord 1, fun n hn => ?_, rfl⟩⟩
  rw [s.getLsbD_statusWord, if_neg (by omega), if_neg (by omega)]

end Sys2Proof.Machine
end

section
/-! PROOFS. The family of `46_system_commands.md`: the words of `NOP` and `CLR`, which words with their opcodes are
illegal, and what the two commands leave alone. -/

namespace Sys2Proof.Machine

/-- Settles O24: a legal word with op 0 has every field 0, and the one word with these fields is the word 0. -/
theorem nopChangesNothing : Obligations.NopChangesNothing := by
  refine ⟨decode_encode (i := .nop) rfl, fun w hop hw => ?_, fun _ => rfl⟩
  rw [isIllegal_iff_of_no_operand hop (by decide) rfl]
  by_contra! hfields
  obtain ⟨hidx, hzero, himm⟩ := hfields
  have hpack : packFields 0 0 0 = w := packFields_eq_iff.2 ⟨hop, hidx, hzero, himm⟩
  exact hw hpack.symm

/-- Settles O25: `CLR` keeps the inputs of `ENC`, so the runs of `ENC` with and without it are alike; they differ in the
diagnostics alone. -/
theorem clrClearsDiagnostics : Obligations.ClrClearsDiagnostics := by
  refine ⟨decode_encode (i := .clr) rfl, fun _ hop => isIllegal_iff_of_no_operand hop (by decide) rfl, fun _ => rfl,
    fun s t u hclr henc => ?_⟩
  obtain rfl : (s.writeDiag 0).clearSovf = t := Host.Outcome.next.inj hclr
  obtain ⟨u', henc', halike⟩ :=
    exec_runsAlike_of_next (s' := (s.writeDiag 0).clearSovf) henc ⟨rfl, rfl, rfl, rfl, rfl⟩
  have hsource : SameAnswerSource .enc s (s.writeDiag 0).clearSovf := ⟨nofun, nofun, nofun, nofun⟩
  have heq := halike.eq_overwrite rfl rfl hsource
  rw [halike.out rfl, halike.recon rfl, halike.cerr rfl] at heq
  exact ⟨u', henc', heq⟩

end Sys2Proof.Machine
end

section
/-! PROOFS. The family of `60_exceptions.md`: the record of illegal words in `CERR`, the idle step, and that every command
and every step completes. -/

namespace Sys2Proof.Machine

/-! ## The record of illegal words -/

/-- A legal command leaves `CERR` alone (`10_state.md` R20). -/
theorem exec_cerr_of_wellFormed {i : Instr} {s t : State} (hwf : i.wellFormed = true) (h : exec i s = .next t) :
    t.cerr = s.cerr := by
  obtain ⟨-, -, -, -, -, -, -, -, -, hcerr, -, -⟩ := elementsAndTheirWriters i s t hwf h
  exact hcerr

/-- The record of illegal words, one event later. -/
theorem illegalReceived_append (done : List HostEvent) (e : HostEvent) :
    illegalReceived (done ++ [e]) = illegalAfter (illegalReceived done) e := by
  simp [illegalReceived]

/-- Every event moves `CERR` as it moves the record: `RESET` clears both, an illegal word sets both, and a legal word
keeps both (`60_exceptions.md` R184). -/
theorem runEvent_cerr {e : HostEvent} {s t : State} (h : runEvent e s = .next t) : t.cerr = illegalAfter s.cerr e := by
  cases e with
  | reset =>
    obtain rfl := Host.Outcome.next.inj h
    rfl
  | command w =>
    rcases runWord_cases h with ⟨i, hd, hx⟩ | ⟨hill, rfl⟩
    · have hlegal : isIllegal w = false := isIllegal_eq_false.2 ⟨i, hd⟩
      simp [illegalAfter, hlegal, exec_cerr_of_wellFormed (wellFormed_of_decode hd) hx]
    · simp [illegalAfter, hill]

/-- Settles O54: the record of the events taken is kept by every step, since `CERR` follows the record at every event. -/
theorem cerrRecordIsKept : Obligations.CerrRecordIsKept := by
  intro sent s t inv h
  refine step_keeps_record (P := fun done s => s.cerr = illegalReceived done) ?_ ?_ inv h
  · exact fun _ _ _ hcerr => hcerr
  · intro done e s t hcerr hr
    rw [illegalReceived_append, ← hcerr]
    exact runEvent_cerr hr

/-! ## Every step completes -/

/-- Settles O7: a step on an empty channel is idle. -/
theorem idleStepKeepsState : Obligations.IdleStepKeepsState := by
  intro s hp
  rw [step_eq, hp]

/-- Every step completes: an idle one, a `RESET`, or a word, legal or not (`60_exceptions.md` R180, R190). -/
theorem step_completes (s : State) : ∃ t, step s = .next t := by
  rw [step_eq]
  split
  · exact ⟨_, rfl⟩
  · exact ⟨_, rfl⟩
  · exact runWord_completes _ _

/-- A step takes the oldest event, if there is one, and no other (`20_memory.md` R48). -/
theorem step_pending {s t : State} (h : step s = .next t) : t.pending = s.pending.tail := by
  rcases step_takes_event h with ⟨hp, rfl⟩ | ⟨e, hp, -⟩
  · rw [hp, List.tail_nil]
  · rw [hp, List.tail_cons]

/-- Settles O10: a command completes and keeps the channel, a step completes and takes its oldest event. -/
theorem everyStepCompletes : Obligations.EveryStepCompletes := by
  constructor
  · intro i s
    obtain ⟨t, h⟩ := exec_completes i s
    exact ⟨t, h, exec_pending h⟩
  · intro s
    obtain ⟨t, h⟩ := step_completes s
    exact ⟨t, h, step_pending h⟩

end Sys2Proof.Machine
end

section
/-! PROOFS. The family of `70_reset_and_hazards.md`: the host's sequence for one call of `encode`. And the words of the
spec's vectors. -/

namespace Sys2Proof.Machine

/-- Settles O5: each word is that of its well-formed command. -/
theorem specWordsDecode : Obligations.SpecWordsDecode := by
  simp only [Obligations.SpecWordsDecode, decode_eq_ok_iff]
  decide

/-! ## What a sequence of commands keeps, and what it answers -/

/-- A sequence of commands completes (`20_memory.md` R48, `60_exceptions.md` R180). -/
theorem runCommands_completes (is : List Instr) (s : State) : ∃ t, runCommands is s = .next t := by
  induction is generalizing s with
  | nil => exact ⟨s, rfl⟩
  | cons i is ih =>
    obtain ⟨s', hs'⟩ := exec_completes i s
    rw [runCommands_cons hs']
    exact ih s'

/-- A completed sequence is its first command followed by the rest. -/
theorem runCommands_cons_next {i : Instr} {is : List Instr} {s t : State} (h : runCommands (i :: is) s = .next t) :
    ∃ s', exec i s = .next s' ∧ runCommands is s' = .next t := by
  obtain ⟨s', hs'⟩ := exec_completes i s
  exact ⟨s', hs', runCommands_cons hs' is ▸ h⟩

/-- What every command of a sequence keeps, the sequence keeps. -/
theorem runCommands_keeps {α : Type} (f : State → α) {is : List Instr} {s t : State}
    (hkeeps : ∀ i ∈ is, ∀ s t, exec i s = .next t → f t = f s) (h : runCommands is s = .next t) : f t = f s := by
  induction is generalizing s with
  | nil => rw [Host.Outcome.next.inj h]
  | cons i is ih =>
    rw [List.forall_mem_cons] at hkeeps
    obtain ⟨s', hs', ht⟩ := runCommands_cons_next h
    rw [ih hkeeps.2 ht, hkeeps.1 s s' hs']

/-- A sequence of legal commands leaves `CERR` alone (`60_exceptions.md` R184). -/
theorem runCommands_cerr {is : List Instr} {s t : State} (hwf : ∀ i ∈ is, i.wellFormed = true)
    (h : runCommands is s = .next t) : t.cerr = s.cerr :=
  runCommands_keeps State.cerr (fun i hi _ _ => exec_cerr_of_wellFormed (hwf i hi)) h

/-- A sequence of legal commands sends one response for each of its reads (`30_encoding.md` R67). -/
theorem runCommands_responses {is : List Instr} {s t : State} (hwf : ∀ i ∈ is, i.wellFormed = true)
    (h : runCommands is s = .next t) : ∃ r, t.responses = s.responses ++ r ∧ r.length = is.countP isRead := by
  induction is generalizing s with
  | nil =>
    obtain rfl := Host.Outcome.next.inj h
    exact ⟨[], (List.append_nil _).symm, rfl⟩
  | cons i is ih =>
    obtain ⟨hi, his⟩ := List.forall_mem_cons.1 hwf
    obtain ⟨s', hs', ht⟩ := runCommands_cons_next h
    obtain ⟨r, hr, hlen⟩ := ih his ht
    cases hread : isRead i with
    | true =>
      obtain ⟨answer, hexec, -⟩ := exec_read hi hread
      obtain rfl := Host.Outcome.next.inj ((hexec s).symm.trans hs')
      exact ⟨answer s :: r, by simp [hr], by simp [hread, hlen]⟩
    | false => exact ⟨r, by rw [hr, exec_responses_of_not_read hi hread hs'], by simp [hread, hlen]⟩

/-! ## Loading the table -/

/-- The loads of a longer table are those of the shorter one and then its last pair's (`70_reset_and_hazards.md` R202). -/
theorem loadTable_concat (table : List CoefPair) (p : CoefPair) :
    loadTable (table ++ [p]) = loadTable table ++ ldc (BitVec.ofNat 4 table.length) p.a1 p.a2 := by
  simp [loadTable, List.zipIdx_append]

/-- The loads of a table put it in the slots below its length and leave the rest of the state. -/
theorem runCommands_loadTable (table : List CoefPair) (hlen : table.length ≤ 16) (s : State) :
    runCommands (loadTable table) s =
      .next { s with coef := Vector.ofFn fun k : Fin 16 => table[k.val]?.getD s.coef[k] } := by
  induction table using List.reverseRecOn with
  | nil => simp [loadTable, runCommands]
  | append_singleton table p ih =>
    rw [List.length_append, List.length_singleton] at hlen
    rw [loadTable_concat, runCommands_append (ih (by omega)), runCommands_ldc]
    refine congrArg (fun coef => Host.Outcome.next { s with coef }) (Vector.ext fun k hk => ?_)
    have hslot : (BitVec.ofNat 4 table.length).toNat = table.length := by simp; omega
    rcases lt_trichotomy k table.length with hlt | rfl | hgt
    · have hne : table.length ≠ k := hlt.ne'
      simp [hslot, hne, List.getElem?_append_left hlt]
    · simp [hslot]
    · have hne : table.length ≠ k := hgt.ne
      have hend : (table ++ [p]).length ≤ k := by simpa using hgt
      simp [hslot, hne, List.getElem?_eq_none hend, List.getElem?_eq_none hgt.le]

/-- The loads of a table are well-formed and none of them is a read. -/
theorem loadTable_commands (table : List CoefPair) :
    ∀ i ∈ loadTable table, i.wellFormed = true ∧ isRead i = false := by
  intro i hi
  simp only [loadTable, List.mem_flatten, List.mem_map] at hi
  obtain ⟨_, ⟨⟨p, n⟩, -, rfl⟩, hi⟩ := hi
  rcases List.mem_pair.1 hi with rfl | rfl <;> exact ⟨rfl, rfl⟩

/-! ## The blocks -/

/-- The samples fill one block for every fourteen of them, the last one padded (`70_reset_and_hazards.md` R204). -/
theorem blocksOf_length {n : Nat} {samples : List Half} (h : samples.length ≤ n) :
    (blocksOf n samples).length = (samples.length + 13) / 14 := by
  induction n generalizing samples with
  | zero => simp [List.length_eq_zero_iff.1 (Nat.le_zero.1 h), blocksOf]
  | succ n ih =>
    cases samples with
    | nil => rfl
    | cons v rest =>
      have hrest : ((v :: rest).drop 14).length ≤ n := by
        rw [List.length_cons] at h
        rw [List.length_drop, List.length_cons]
        omega
      have hsplit : blocksOf (n + 1) (v :: rest) =
          padBlock ((v :: rest).take 14) :: blocksOf n ((v :: rest).drop 14) := rfl
      rw [hsplit, List.length_cons, ih hrest, List.length_drop, List.length_cons]
      omega

/-- Each block brings the eight responses of its read-out. -/
theorem countP_isRead_blocks (blocks : List (Vector Half 14)) :
    ((blocks.map fun b => blk b ++ rdb).flatten).countP isRead = 8 * blocks.length := by
  have hblock : ∀ b : Vector Half 14, (blk b ++ rdb).countP isRead = 8 := fun _ => rfl
  induction blocks with
  | nil => rfl
  | cons b blocks ih =>
    rw [List.map_cons, List.flatten_cons, List.countP_append, hblock, ih, List.length_cons]
    omega

/-! ## After the table is loaded -/

/-- The command loads `N` or a coefficient of the table. -/
def loadsTable : Instr → Bool
  | .ldn _ | .lda1 _ _ | .lda2 _ _ => true
  | _ => false

/-- A legal command that loads neither `N` nor a coefficient keeps both (`10_state.md` R20). -/
theorem exec_keeps_table {i : Instr} {s t : State} (hwf : i.wellFormed = true) (hload : loadsTable i = false)
    (h : exec i s = .next t) : t.nm1 = s.nm1 ∧ t.coef = s.coef := by
  obtain ⟨-, -, hcoef, hnm1, -⟩ := elementsAndTheirWriters i s t hwf h
  constructor
  · by_contra hne
    obtain ⟨n, rfl⟩ := hnm1 hne
    cases hload
  · by_contra hne
    obtain ⟨c, v, rfl | rfl⟩ := hcoef hne <;> cases hload

/-- A sequence of legal commands that load neither `N` nor a coefficient keeps both. -/
theorem runCommands_keeps_table {is : List Instr} {s t : State}
    (his : ∀ i ∈ is, i.wellFormed = true ∧ loadsTable i = false) (h : runCommands is s = .next t) :
    t.nm1 = s.nm1 ∧ t.coef = s.coef := by
  have hexec : ∀ i ∈ is, ∀ s t, exec i s = .next t → t.nm1 = s.nm1 ∧ t.coef = s.coef := fun i hi _ _ hx =>
    exec_keeps_table (his i hi).1 (his i hi).2 hx
  exact ⟨runCommands_keeps State.nm1 (fun i hi s t hx => (hexec i hi s t hx).1) h,
    runCommands_keeps State.coef (fun i hi s t hx => (hexec i hi s t hx).2) h⟩

/-- Steps 3 to 6 of `70_reset_and_hazards.md` R202: the host's sequence once `N` and the table are loaded. -/
def encodeStream (h1 h2 : Half) (samples : List Half) : List Instr :=
  seed h1 h2 ++ [.clr] ++ ((blocksOf samples.length samples).map fun b => blk b ++ rdb).flatten ++
    [.rdh1, .rdh2, .rdd, .rds]

/-- The host's sequence is the loads of `N` and the table, and then the stream. -/
theorem encodeCall_eq (table : List CoefPair) (h1 h2 : Half) (samples : List Half) :
    encodeCall table h1 h2 samples =
      .ldn (BitVec.ofNat 4 (table.length - 1)) :: (loadTable table ++ encodeStream h1 h2 samples) := by
  simp [encodeCall, encodeStream]

/-- The commands of the stream are well-formed and none of them loads `N` or the table. -/
theorem encodeStream_commands (h1 h2 : Half) (samples : List Half) :
    ∀ i ∈ encodeStream h1 h2 samples, i.wellFormed = true ∧ loadsTable i = false := by
  have hblk : ∀ b, ∀ i ∈ blk b, loadsTable i = false := by
    intro b i hi
    simp only [blk, List.mem_append, List.mem_ofFn, List.mem_singleton] at hi
    rcases hi with ⟨k, rfl⟩ | rfl <;> rfl
  have hrdb : ∀ i ∈ rdb, loadsTable i = false := by decide
  intro i hi
  simp only [encodeStream, List.mem_append, List.mem_flatten, List.mem_map] at hi
  rcases hi with ((hseed | hclr) | ⟨_, ⟨b, -, rfl⟩, hblock⟩) | hreads
  · rcases List.mem_pair.1 hseed with rfl | rfl <;> exact ⟨rfl, rfl⟩
  · rw [List.mem_singleton.1 hclr]
    exact ⟨rfl, rfl⟩
  · rcases List.mem_append.1 hblock with hi | hi
    · exact ⟨blk_wellFormed b i hi, hblk b i hi⟩
    · exact ⟨rdb_wellFormed i hi, hrdb i hi⟩
  · revert i
    decide

/-- The commands of the host's sequence are well-formed. -/
theorem encodeCall_wellFormed (table : List CoefPair) (h1 h2 : Half) (samples : List Half) :
    ∀ i ∈ encodeCall table h1 h2 samples, i.wellFormed = true := by
  intro i hi
  rw [encodeCall_eq, List.mem_cons, List.mem_append] at hi
  rcases hi with rfl | hload | hstream
  · rfl
  · exact (loadTable_commands table i hload).1
  · exact (encodeStream_commands h1 h2 samples i hstream).1

/-- The reads of the host's sequence: eight for each block, and the four at the end. -/
theorem countP_isRead_encodeCall (table : List CoefPair) (h1 h2 : Half) (samples : List Half) :
    (encodeCall table h1 h2 samples).countP isRead = 8 * ((samples.length + 13) / 14) + 4 := by
  have hload : (loadTable table).countP isRead = 0 :=
    List.countP_eq_zero.2 fun i hi => by simp [(loadTable_commands table i hi).2]
  have hreads : [Instr.rdh1, .rdh2, .rdd, .rds].countP isRead = 4 := rfl
  rw [encodeCall_eq, List.countP_cons, List.countP_append, hload, encodeStream, List.countP_append,
    List.countP_append, countP_isRead_blocks, blocksOf_length le_rfl, hreads]
  simp [seed, isRead]

/-- What the host's sequence leaves in `N` and the table: the loads put it there and the stream keeps it. -/
theorem runCommands_encodeCall_table {table : List CoefPair} (hlen : table.length ≤ 16) {h1 h2 : Half}
    {samples : List Half} {s t : State} (h : runCommands (encodeCall table h1 h2 samples) s = .next t) :
    t.nm1 = BitVec.ofNat 4 (table.length - 1) ∧
      t.coef = Vector.ofFn fun k : Fin 16 => table[k.val]?.getD s.coef[k] := by
  rw [encodeCall_eq, runCommands_cons (t := s.writeNm1 _) rfl,
    runCommands_append (runCommands_loadTable table hlen _)] at h
  exact runCommands_keeps_table (encodeStream_commands h1 h2 samples) h

/-- Settles O60: a sequence of legal commands completes, keeps `CERR` and answers each of its reads, here eight a block
and four; its first commands load `N` and the table, and no later one touches them. -/
theorem encodeCallResponds : Obligations.EncodeCallResponds := by
  intro table h1 h2 samples s hpos hlen
  have hwf := encodeCall_wellFormed table h1 h2 samples
  obtain ⟨t, ht⟩ := runCommands_completes (encodeCall table h1 h2 samples) s
  obtain ⟨r, hr, hcount⟩ := runCommands_responses hwf ht
  obtain ⟨hnm1, hcoef⟩ := runCommands_encodeCall_table hlen ht
  refine ⟨hwf, t, r, ht, hr, hcount.trans (countP_isRead_encodeCall table h1 h2 samples), runCommands_cerr hwf ht,
    ?_, fun k hk => ?_, fun k hk => ?_⟩
  · rw [State.candidateCount, hnm1, BitVec.toNat_ofNat]
    omega
  · simp [hcoef, hk]
  · simp [hcoef, List.getElem?_eq_none hk]

end Sys2Proof.Machine
end
